-- ==== Sys2Proof/Word.lean ====
section
/-! DEFINITION. The words of the machine (spec/00_scope.md R10, R11): every register, byte and field is unsigned. -/

namespace Sys2Proof

/-- A byte: a general register, a memory byte, a timer, an immediate `kk` (R11, R21, R28). -/
abbrev Byte := BitVec 8

/-- A 16-bit word: an instruction word, `I`, `PC`, a stack entry (R23, R24, R26, R70). -/
abbrev Word := BitVec 16

/-- The number of a general register, V0 to VF (R21). -/
abbrev Reg := BitVec 4

/-- The 12-bit address field `nnn` of an instruction (R13). -/
abbrev Addr12 := BitVec 12

end Sys2Proof
end

