-- ==== Sys2Proof/Syntax.lean ====
section
/-! DEFINITION. The 34 instructions of the core, one constructor per row of spec/opcode_table.json, in the table's
order (spec/30_encoding.md R75). The types of the operands are the widths of the fields (R72, R73), so no
constructor can hold an operand the encoding has no room for. UNKNOWN (R77) is no row of the table and no
constructor: it is the decoder's marker. -/

namespace Sys2Proof

/-- An instruction with its operands. `x` and `y` are register numbers, `kk` a byte, `nnn` an address, `n` a row count. -/
inductive Instr where
  | cls                              -- 00E0  CLS          (R150)
  | ret                              -- 00EE  RET          (R110)
  | jp (nnn : Addr12)                -- 1nnn  JP nnn       (R111)
  | call (nnn : Addr12)              -- 2nnn  CALL nnn     (R112)
  | seImm (x : Reg) (kk : Byte)      -- 3xkk  SE Vx,kk     (R113)
  | sneImm (x : Reg) (kk : Byte)     -- 4xkk  SNE Vx,kk    (R114)
  | seReg (x y : Reg)                -- 5xy0  SE Vx,Vy     (R115)
  | ldImm (x : Reg) (kk : Byte)      -- 6xkk  LD Vx,kk     (R122)
  | addImm (x : Reg) (kk : Byte)     -- 7xkk  ADD Vx,kk    (R123)
  | ldReg (x y : Reg)                -- 8xy0  LD Vx,Vy     (R124)
  | orReg (x y : Reg)                -- 8xy1  OR Vx,Vy     (R125)
  | andReg (x y : Reg)               -- 8xy2  AND Vx,Vy    (R126)
  | xorReg (x y : Reg)               -- 8xy3  XOR Vx,Vy    (R127)
  | addReg (x y : Reg)               -- 8xy4  ADD Vx,Vy    (R128)
  | subReg (x y : Reg)               -- 8xy5  SUB Vx,Vy    (R129)
  | shr (x y : Reg)                  -- 8xy6  SHR Vx       (R130), y decoded and ignored (R76)
  | subnReg (x y : Reg)              -- 8xy7  SUBN Vx,Vy   (R131)
  | shl (x y : Reg)                  -- 8xyE  SHL Vx       (R132), y decoded and ignored (R76)
  | sneReg (x y : Reg)               -- 9xy0  SNE Vx,Vy    (R116)
  | ldIndex (nnn : Addr12)           -- Annn  LD I,nnn     (R140)
  | jpV0 (nnn : Addr12)              -- Bnnn  JP V0,nnn    (R117)
  | rnd (x : Reg) (kk : Byte)        -- Cxkk  RND Vx,kk    (R133)
  | drw (x y : Reg) (n : BitVec 4)   -- Dxyn  DRW Vx,Vy,n  (R151)
  | skp (x : Reg)                    -- Ex9E  SKP Vx       (R160)
  | sknp (x : Reg)                   -- ExA1  SKNP Vx      (R161)
  | ldVxDt (x : Reg)                 -- Fx07  LD Vx,DT     (R163)
  | ldVxKey (x : Reg)                -- Fx0A  LD Vx,K      (R162)
  | ldDtVx (x : Reg)                 -- Fx15  LD DT,Vx     (R164)
  | ldStVx (x : Reg)                 -- Fx18  LD ST,Vx     (R165)
  | addIndex (x : Reg)               -- Fx1E  ADD I,Vx     (R141)
  | ldFont (x : Reg)                 -- Fx29  LD F,Vx      (R142)
  | ldBcd (x : Reg)                  -- Fx33  LD B,Vx      (R143)
  | storeRegs (x : Reg)              -- Fx55  LD [I],Vx    (R144)
  | loadRegs (x : Reg)               -- Fx65  LD Vx,[I]    (R145)
  deriving DecidableEq, Repr

end Sys2Proof
end

