-- ==== Sys2Proof/Decode.lean ====
section
/-! DEFINITION. The decoder (spec/30_encoding.md R72 to R78): pure and total on 16-bit words; a word that is no
instruction is answered by name. After it the encoder, written from the same table (R75). -/

namespace Sys2Proof

/-- What a word decodes to: an instruction, or the marker for an unknown opcode with the word itself (R74). -/
inductive Decoded where
  | known (i : Instr)
  | unknown (w : Word)
  deriving DecidableEq, Repr

/-- The family nibble, bits 15 to 12 (R72). -/
def opField (w : Word) : BitVec 4 := w.extractLsb' 12 4

/-- The register field `x`, bits 11 to 8 (R72). -/
def xField (w : Word) : Reg := w.extractLsb' 8 4

/-- The register field `y`, bits 7 to 4 (R72). -/
def yField (w : Word) : Reg := w.extractLsb' 4 4

/-- The nibble `n` (also `fn4`), bits 3 to 0 (R72). -/
def nField (w : Word) : BitVec 4 := w.extractLsb' 0 4

/-- The byte `kk` (also `fn8`), bits 7 to 0 (R72). -/
def kkField (w : Word) : Byte := w.extractLsb' 0 8

/-- The address `nnn`, bits 11 to 0 (R72). -/
def nnnField (w : Word) : Addr12 := w.extractLsb' 0 12

/-- Family 0: two exact words (R76, R78). -/
def decodeFamily0 (w : Word) : Decoded :=
  if w = 0x00E0 then .known .cls
  else if w = 0x00EE then .known .ret
  else .unknown w

/-- Family 8: the function nibble selects the operation (R78). -/
def decodeFamily8 (w : Word) : Decoded :=
  match nField w with
  | 0x0 => .known (.ldReg (xField w) (yField w))
  | 0x1 => .known (.orReg (xField w) (yField w))
  | 0x2 => .known (.andReg (xField w) (yField w))
  | 0x3 => .known (.xorReg (xField w) (yField w))
  | 0x4 => .known (.addReg (xField w) (yField w))
  | 0x5 => .known (.subReg (xField w) (yField w))
  | 0x6 => .known (.shr (xField w) (yField w))
  | 0x7 => .known (.subnReg (xField w) (yField w))
  | 0xE => .known (.shl (xField w) (yField w))
  | _ => .unknown w

/-- Family E: the two key skips (R78). -/
def decodeFamilyE (w : Word) : Decoded :=
  match kkField w with
  | 0x9E => .known (.skp (xField w))
  | 0xA1 => .known (.sknp (xField w))
  | _ => .unknown w

/-- Family F: the function byte selects the operation (R78). -/
def decodeFamilyF (w : Word) : Decoded :=
  match kkField w with
  | 0x07 => .known (.ldVxDt (xField w))
  | 0x0A => .known (.ldVxKey (xField w))
  | 0x15 => .known (.ldDtVx (xField w))
  | 0x18 => .known (.ldStVx (xField w))
  | 0x1E => .known (.addIndex (xField w))
  | 0x29 => .known (.ldFont (xField w))
  | 0x33 => .known (.ldBcd (xField w))
  | 0x55 => .known (.storeRegs (xField w))
  | 0x65 => .known (.loadRegs (xField w))
  | _ => .unknown w

/-- The decoder: a switch on the family nibble (R78), strict in every bit the table fixes (R76). The last arm is
family F. -/
def decode (w : Word) : Decoded :=
  match opField w with
  | 0x0 => decodeFamily0 w
  | 0x1 => .known (.jp (nnnField w))
  | 0x2 => .known (.call (nnnField w))
  | 0x3 => .known (.seImm (xField w) (kkField w))
  | 0x4 => .known (.sneImm (xField w) (kkField w))
  | 0x5 => if nField w = 0 then .known (.seReg (xField w) (yField w)) else .unknown w
  | 0x6 => .known (.ldImm (xField w) (kkField w))
  | 0x7 => .known (.addImm (xField w) (kkField w))
  | 0x8 => decodeFamily8 w
  | 0x9 => if nField w = 0 then .known (.sneReg (xField w) (yField w)) else .unknown w
  | 0xA => .known (.ldIndex (nnnField w))
  | 0xB => .known (.jpV0 (nnnField w))
  | 0xC => .known (.rnd (xField w) (kkField w))
  | 0xD => .known (.drw (xField w) (yField w) (nField w))
  | 0xE => decodeFamilyE w
  | _ => decodeFamilyF w

/-- The instruction word in two consecutive bytes, most significant byte first (R53, R70). -/
def wordOfBytes (hi lo : Byte) : Word := hi ++ lo

/-- The byte of a word at the lower address: bits 15 to 8 (R53). -/
def highByte (w : Word) : Byte := w.extractLsb' 8 8

/-- The byte of a word at the higher address: bits 7 to 0 (R53). -/
def lowByte (w : Word) : Byte := w.extractLsb' 0 8

/-- The decoder on the two bytes of an instruction as memory holds them (R53, R74). -/
def decodeBytes (hi lo : Byte) : Decoded := decode (wordOfBytes hi lo)

/-- The instruction of a decoding, none for an unknown word. -/
def knownInstr : Decoded → Option Instr
  | .known i => some i
  | .unknown _ => none

/-- The word whose low `nbits` bits are those of `w`, all bits above them 0. -/
def tableWord (nbits w : Nat) : Word := BitVec.ofNat 16 (w % 2 ^ nbits)

/-- The instruction the decoder reads from bits numbered as spec/opcode_table.json numbers them: laid out as two
bytes in memory order and given to the decoder. -/
def decodeTableWord (nbits w : Nat) : Option Instr :=
  knownInstr (decodeBytes (highByte (tableWord nbits w)) (lowByte (tableWord nbits w)))

/-- Format `XY` (R71): family, two registers, function nibble. -/
def encodeXY (op : BitVec 4) (x y : Reg) (fn : BitVec 4) : Word := op ++ x ++ y ++ fn

/-- Formats `XK` and `XF` (R71): family, register, byte. -/
def encodeXK (op : BitVec 4) (x : Reg) (kk : Byte) : Word := op ++ x ++ kk

/-- Format `A` (R71): family, address. -/
def encodeA (op : BitVec 4) (nnn : Addr12) : Word := op ++ nnn

/-- The encoder: the word of an instruction, by the pattern column of R75. -/
def encode : Instr → Word
  | .cls => 0x00E0
  | .ret => 0x00EE
  | .jp nnn => encodeA 0x1 nnn
  | .call nnn => encodeA 0x2 nnn
  | .seImm x kk => encodeXK 0x3 x kk
  | .sneImm x kk => encodeXK 0x4 x kk
  | .seReg x y => encodeXY 0x5 x y 0x0
  | .ldImm x kk => encodeXK 0x6 x kk
  | .addImm x kk => encodeXK 0x7 x kk
  | .ldReg x y => encodeXY 0x8 x y 0x0
  | .orReg x y => encodeXY 0x8 x y 0x1
  | .andReg x y => encodeXY 0x8 x y 0x2
  | .xorReg x y => encodeXY 0x8 x y 0x3
  | .addReg x y => encodeXY 0x8 x y 0x4
  | .subReg x y => encodeXY 0x8 x y 0x5
  | .shr x y => encodeXY 0x8 x y 0x6
  | .subnReg x y => encodeXY 0x8 x y 0x7
  | .shl x y => encodeXY 0x8 x y 0xE
  | .sneReg x y => encodeXY 0x9 x y 0x0
  | .ldIndex nnn => encodeA 0xA nnn
  | .jpV0 nnn => encodeA 0xB nnn
  | .rnd x kk => encodeXK 0xC x kk
  | .drw x y n => encodeXY 0xD x y n
  | .skp x => encodeXK 0xE x 0x9E
  | .sknp x => encodeXK 0xE x 0xA1
  | .ldVxDt x => encodeXK 0xF x 0x07
  | .ldVxKey x => encodeXK 0xF x 0x0A
  | .ldDtVx x => encodeXK 0xF x 0x15
  | .ldStVx x => encodeXK 0xF x 0x18
  | .addIndex x => encodeXK 0xF x 0x1E
  | .ldFont x => encodeXK 0xF x 0x29
  | .ldBcd x => encodeXK 0xF x 0x33
  | .storeRegs x => encodeXK 0xF x 0x55
  | .loadRegs x => encodeXK 0xF x 0x65

end Sys2Proof
end

