-- ==== Sys2Proof/Config.lean ====
section
/-! DEFINITION. The parameters of the core (spec/00_scope.md R9) and the free values. A parameter the spec fixes
is a number; a parameter it leaves OPEN, and what the host may choose freely, is an opaque constant, so that no
proof can rest on its value. -/

namespace Sys2Proof.Config

/-- Bytes of memory (R9 `MEM_SIZE`, R50). -/
def memSize : Nat := 4096

/-- Address of the first ROM byte and reset value of `PC` (R9 `ROM_BASE`). -/
def romBase : Nat := 0x200

/-- Most ROM bytes that LoadROM copies (R9 `ROM_MAX`, R192). -/
def romMax : Nat := 3584

/-- Entries of the call stack (R9 `STACK_DEPTH`, the spec's decision D9). -/
def stackDepth : Nat := 16

/-- Bytes of the 16 glyphs at address 0 (R41, R51). -/
def fontSize : Nat := 80

/-- Bytes of one glyph (R9 `GLYPH_BYTES`, R142). -/
def glyphBytes : Nat := 5

/-- One less than the OPEN parameter `T60` (R9, D18): free, so `t60` is any positive integer. Log 8. -/
opaque t60Pred : Nat

/-- `T60`, the length of one 60 Hz interval in the unit of `now`: OPEN, a positive integer (R9). Log 8. -/
def t60 : Nat := t60Pred + 1

/-- `FONT`: the byte at each address below 0x050 after Init: OPEN (R9, R41, D24). Log 5. -/
opaque font : Nat → Byte

/-- `MEM_INIT`: the byte that Init number `k` leaves at an address from 0x050 up: OPEN, and not assumed equal for
two Inits (R9, R41, R195, D23). Log 5. -/
opaque memInit (k addr : Nat) : Byte

/-- The `keys` input of the `k`-th Tick that the list of host transactions does not describe: any value (R36). Log 1. -/
opaque freeKeys (k : Nat) : BitVec 16

/-- The `now` input of such a Tick: any value (R37, D18). Log 1 and log 2. -/
opaque freeNow (k : Nat) : Nat

/-- The `rnd` input of such a Tick: any value (R38, D22). Log 1. -/
opaque freeRnd (k : Nat) : Byte

end Sys2Proof.Config
end

