-- ==== Sys2Proof/Machine/State.lean ====
section
/-! DEFINITION. The state of the core (spec/10_state.md R20), the inputs and the output of a Tick (R35 to R39), the
transactions the host issues (spec/00_scope.md R8), the reasons a step can stop, and the state after Init (R41). -/

namespace Sys2Proof.Machine

/-- The inputs of one Tick (R35): `keys` bit `k` is 1 iff key `k` is pressed (R36), `now` is the host's time (R37),
`rnd` the random byte (R38). -/
structure TickInputs where
  keys : BitVec 16
  now : Nat
  rnd : Byte
  deriving DecidableEq, Repr

/-- A transaction of the host (R8): Init (R190), LoadROM with its bytes (R192), Tick with its inputs (R90). -/
inductive Transaction where
  | init
  | loadRom (rom : List Byte)
  | tick (inputs : TickInputs)
  deriving DecidableEq, Repr

/-- The execution state (R31); the payload is the number of the register that will receive the key. -/
inductive ExecState where
  | running
  | awaitingKey (x : Reg)
  deriving DecidableEq, Repr

/-- The result of a Tick (R39, R171). -/
inductive TickResult where
  | ok
  | unknownOpcode (w : Word)
  | stackOverflow
  | stackUnderflow
  deriving DecidableEq, Repr

/-- Before the first Init no Tick is defined (R190, R195). Log 12. -/
inductive Phase where
  | beforeInit
  | initialised
  deriving DecidableEq, Repr

/-- Memory: the bytes written since Init, as address and byte, addresses strictly rising (`Memory.wf` in Ops.lean).
An address that is not listed holds the byte Init left there, an open parameter (R32, R41). Log 5. -/
abbrev Memory := List Host.Cell

/-- The 32 rows of 64 pixels, `fb[y][x]` (R33). -/
abbrev Framebuffer := Vector (Vector Bool 64) 32

/-- The state of the core. The first eleven fields are the components of R20. `inputs` and `result` are the input and
the output of the Tick (R35, R39), `t60` is the parameter of R9, and the last four are the model's own (logs 1, 5, 12). -/
structure State where
  /-- V0 to VF (R21). -/
  v : Vector Byte 16
  /-- The index register I (R23). -/
  index : Word
  /-- The program counter (R24). -/
  pc : Word
  /-- The call stack, oldest entry first, the last entry the top (R26). -/
  stack : List Word
  /-- The delay timer (R28). -/
  dt : Byte
  /-- The sound timer (R29). -/
  st : Byte
  /-- The reference timestamp of the delay timer (R30). -/
  dtRef : Nat
  /-- The reference timestamp of the sound timer (R30). -/
  stRef : Nat
  /-- The execution state (R31). -/
  es : ExecState
  /-- The framebuffer (R33). -/
  fb : Framebuffer
  /-- The bytes of memory written since Init (R32). -/
  mem : Memory
  /-- The inputs of the Tick in progress (R35). -/
  inputs : TickInputs
  /-- The result of the last Tick, an output that nothing reads (R39). Log 3. -/
  result : TickResult
  /-- The parameter T60, changed by no step (R9). Log 8. -/
  t60 : Nat
  /-- Whether an Init has happened (R195). Log 12. -/
  phase : Phase
  /-- The transactions the host will issue, the next one first (R8). Log 1. -/
  host : List Transaction
  /-- How many Ticks have taken free inputs. Log 1. -/
  freeTicks : Nat
  /-- How many Init transactions were issued after the first. Log 5. -/
  inits : Nat
  deriving DecidableEq, Repr

/-- Why a step ends in a fault: never. Every condition of the core is a result that the Tick returns, after which the
core goes on (R39, R170, R176), and no address is out of range (R52). So the type has no constructor. -/
inductive Fault where
  deriving DecidableEq, Repr

/-- Why a step is refused. -/
inductive Refusal where
  /-- Raised by an arm of `exec` whose instruction has no meaning yet: by no arm of this model. Safe. -/
  | notModelled (mnemonic : String)
  /-- Raised by `performTransaction` for a LoadROM or a Tick before the first Init, for which the spec gives no
  behaviour and asks a model to refuse (R195, D27). Safe. -/
  | beforeInit
  deriving DecidableEq, Repr

/-- What one step answers. -/
abbrev Out := Host.Outcome State Fault Refusal

/-- The state after Init (R41). `dtRef` and `stRef` are unspecified there and take 0 (DESIGN CHOICE, log 6); the
fields that are no component of R20 take the values of logs 1, 3, 5, 7, 8 and 12. -/
def State.reset : State where
  v := Vector.replicate 16 0
  index := 0
  pc := 0x0200
  stack := []
  dt := 0
  st := 0
  dtRef := 0
  stRef := 0
  es := .running
  fb := Vector.replicate 32 (Vector.replicate 64 false)
  mem := []
  inputs := ⟨0, 0, 0⟩
  result := .ok
  t60 := Config.t60
  phase := .initialised
  host := []
  freeTicks := 0
  inits := 0

end Sys2Proof.Machine
end

