-- ==== Sys2Proof/Machine/Flags.lean ====
section
/-! DEFINITION. The values written to VF, and the 8-bit results beside them (spec/42_alu.md R128 to R132, R134).
Each is computed on unbounded integers and narrowed at the end, as the rules are written (R11). -/

namespace Sys2Proof.Machine

/-- A flag as VF holds it: 1 or 0, never another value (R22, R132). -/
def flagByte (c : Bool) : Byte := if c then 1 else 0

/-- The low 8 bits of the 9-bit sum (R128); also the sum of R123. -/
def sumByte (a b : Byte) : Byte := BitVec.ofNat 8 (a.toNat + b.toNat)

/-- 1 if the sum exceeds 255 (R128). -/
def carryFlag (a b : Byte) : Byte := flagByte (decide (255 < a.toNat + b.toNat))

/-- `(a - b) mod 256` (R129, R131, R134). -/
def diffByte (a b : Byte) : Byte := BitVec.ofNat 8 (if b.toNat ≤ a.toNat then a.toNat - b.toNat else a.toNat + 256 - b.toNat)

/-- 1 if the minuend is strictly greater than the subtrahend, 0 also when they are equal (R129, R131, R134). -/
def greaterFlag (a b : Byte) : Byte := flagByte (decide (b.toNat < a.toNat))

/-- `a >> 1`, zero filled (R130). -/
def shrByte (a : Byte) : Byte := BitVec.ofNat 8 (a.toNat / 2)

/-- Bit 0, the bit that SHR shifts out (R130). -/
def lowBitFlag (a : Byte) : Byte := flagByte (a.getLsbD 0)

/-- `(a * 2) mod 256` (R132). -/
def shlByte (a : Byte) : Byte := BitVec.ofNat 8 (a.toNat * 2)

/-- Bit 7, the bit that SHL shifts out, as 0 or 1 (R132). -/
def highBitFlag (a : Byte) : Byte := flagByte (a.getLsbD 7)

end Sys2Proof.Machine
end

