-- ==== Sys2Proof/Machine/Ops.lean ====
section
/-! DEFINITION. The named operations over the state: registers, program counter, call stack, memory, framebuffer,
and raising an error result. Every instruction's meaning is written over these. -/

namespace Sys2Proof.Machine

/-! ## General registers (R21, R22) -/

/-- The number of VF (R22). -/
def vf : Reg := 0xF

/-- `V[x]` (R12). -/
def State.getV (s : State) (x : Reg) : Byte := s.v[x.toNat]'(x.isLt)

/-- `V[x] <- b` (R12). -/
def State.setV (s : State) (x : Reg) (b : Byte) : State := { s with v := s.v.set x.toNat b x.isLt }

/-- The two writes of a flag-setting instruction: the result to `V[x]`, then the flag to VF, so that the flag stays
when `x = 0xF` (R121). -/
def State.setVFlag (s : State) (x : Reg) (b flag : Byte) : State := (s.setV x b).setV vf flag

/-! ## The other registers (R23, R24, R28 to R31) -/

/-- `I <- a` (R23). -/
def State.setIndex (s : State) (a : Word) : State := { s with index := a }

/-- `pc <- a` (R24). -/
def State.setPc (s : State) (a : Word) : State := { s with pc := a }

/-- The call stack becomes `l` (R26). -/
def State.setStack (s : State) (l : List Word) : State := { s with stack := l }

/-- DT and its reference timestamp (R28, R30). -/
def State.setDelay (s : State) (b : Byte) (ref : Nat) : State := { s with dt := b, dtRef := ref }

/-- ST and its reference timestamp (R29, R30). -/
def State.setSound (s : State) (b : Byte) (ref : Nat) : State := { s with st := b, stRef := ref }

/-- The execution state becomes `e` (R31). -/
def State.setEs (s : State) (e : ExecState) : State := { s with es := e }

/-- The framebuffer becomes `f` (R34). -/
def State.setFb (s : State) (f : Framebuffer) : State := { s with fb := f }

/-- The bytes written since Init become `m` (R32). -/
def State.setMem (s : State) (m : Memory) : State := { s with mem := m }

/-- `result <- r` (R12, R39). -/
def State.setResult (s : State) (r : TickResult) : State := { s with result := r }

/-! ## How the program counter moves (R25) -/

/-- `pc <- (PC + 2) mod 65536` (R25). -/
def State.advance (s : State) : State := s.setPc (s.pc + 2)

/-- A skip: `pc <- (PC + 4) mod 65536` if the condition holds, else `(PC + 2) mod 65536` (R25). -/
def State.skipIf (s : State) (c : Bool) : State := s.setPc (if c then s.pc + 4 else s.pc + 2)

/-! ## Raising an error result (R171, R174)

The core has no trap entry: no register is saved, no mode changes, the program counter goes nowhere (R179). Taking an
exception is this one operation; there is no return from one (R180). -/

/-- `raise E`: the Tick ends with the result `r` and the instruction writes nothing (R174). -/
def State.raise (s : State) (r : TickResult) : Out := .next (s.setResult r)

/-- The number of a result in the spec's table of codes (R171, D11). -/
def resultCode : TickResult → Nat
  | .ok => 0
  | .unknownOpcode _ => 1
  | .stackOverflow => 2
  | .stackUnderflow => 3

/-! ## The call stack (R26, R27) -/

/-- `push(v)`, followed by `k` on the state with the new entry on top; STACK_OVERFLOW when the stack is full (R27, R172). -/
def State.push (s : State) (a : Word) (k : State → Out) : Out :=
  if s.stack.length = Config.stackDepth then s.raise .stackOverflow
  else k (s.setStack (s.stack ++ [a]))

/-- `pop()`, followed by `k` on the popped entry and the state without it; STACK_UNDERFLOW when the stack is empty
(R27, R173). -/
def State.pop (s : State) (k : Word → State → Out) : Out :=
  match s.stack.getLast? with
  | none => s.raise .stackUnderflow
  | some a => k a (s.setStack s.stack.dropLast)

/-! ## Memory (R32, R50 to R57) -/

/-- `a12`: the 12-bit reduction of a byte address (R52). -/
def a12 (a : Nat) : Nat := a % Config.memSize

/-- The byte listed for an address, if any. -/
def Memory.lookup : Memory → Nat → Option Byte
  | [], _ => none
  | (b, w) :: m, a => if b = a then some w else Memory.lookup m a

/-- Lists `w` for the address `a`, in place of what was listed for it, keeping the addresses rising. -/
def Memory.insert : Memory → Nat → Byte → Memory
  | [], a, w => [(a, w)]
  | (b, u) :: m, a, w =>
    if a < b then (a, w) :: (b, u) :: m
    else if a = b then (a, w) :: m
    else (b, u) :: Memory.insert m a w

/-- The canonical form of memory: addresses strictly rising and inside the address space. An unlisted address has no
byte of its own in the list, so no entry can equal what it lists: memories with equal written bytes are equal data. -/
abbrev Memory.wf (m : Memory) : Prop :=
  m.Pairwise (fun p q => p.1 < q.1) ∧ ∀ p ∈ m, p.1 < Config.memSize

/-- What an address reads as when nothing has written it since Init number `k`: a byte of FONT below 0x050, of MEM_INIT
from there up (R41, R51). Both are open parameters. Log 5. -/
def unwrittenByte (k a : Nat) : Byte := if a < Config.fontSize then Config.font a else Config.memInit k a

/-- `MemRead(a, 1)` (R12, R52): every address reads, none faults (R57). -/
def State.readByte (s : State) (a : Nat) : Byte :=
  (Memory.lookup s.mem (a12 a)).getD (unwrittenByte s.inits (a12 a))

/-- `MemWrite(a, 1, b)` (R12, R52): every address is writable (R57). -/
def State.writeByte (s : State) (a : Nat) (b : Byte) : State := s.setMem (Memory.insert s.mem (a12 a) b)

/-! ## The framebuffer (R33, R34) -/

/-- The pixel at row `r` mod 32, column `c` mod 64 (R33, R153, R154). -/
def pixel (f : Framebuffer) (r c : Nat) : Bool :=
  (f[r % 32]'(Nat.mod_lt _ (by decide)))[c % 64]'(Nat.mod_lt _ (by decide))

/-- The framebuffer with that pixel toggled (R34). -/
def flipPixel (f : Framebuffer) (r c : Nat) : Framebuffer :=
  f.set (r % 32)
    ((f[r % 32]'(Nat.mod_lt _ (by decide))).set (c % 64) (!pixel f r c) (Nat.mod_lt _ (by decide)))
    (Nat.mod_lt _ (by decide))

/-- The framebuffer with every pixel 0 (R150). -/
def blankFb : Framebuffer := Vector.replicate 32 (Vector.replicate 64 false)

end Sys2Proof.Machine
end

