-- ==== Sys2Proof/Machine/Operands.lean ====
section
/-! DEFINITION. The operand forms: zero-extended immediates (R73), bytes of memory through `I` (R146), decimal digits
(R143), keys by register value (R166), sprite bits (R152), and the register lists of the bulk transfers (R144, R145). -/

namespace Sys2Proof.Machine

/-- `zext_16(nnn)` (R73). -/
def addrWord (nnn : Addr12) : Word := nnn.zeroExtend 16

/-- `zext_16` of a byte. -/
def byteWord (b : Byte) : Word := b.zeroExtend 16

/-- The address of byte `i` of an access through `I`, before the reduction that every access makes (R146, R52). -/
def State.indexed (s : State) (i : Nat) : Nat := s.index.toNat + i

/-- The three decimal digits of a byte (R143). -/
def hundreds (b : Byte) : Byte := BitVec.ofNat 8 (b.toNat / 100)

/-- Tens digit (R143). -/
def tens (b : Byte) : Byte := BitVec.ofNat 8 (b.toNat / 10 % 10)

/-- Ones digit (R143). -/
def ones (b : Byte) : Byte := BitVec.ofNat 8 (b.toNat % 10)

/-- Whether the key chosen by a register's value, its low four bits, is pressed in this Tick (R160, R166). -/
def State.keyPressed (s : State) (x : Reg) : Bool := s.inputs.keys.getLsbD ((s.getV x).toNat % 16)

/-- The least pressed key, if any (R92). -/
def leastKey (keys : BitVec 16) : Option Nat := (List.range 16).find? (fun k => keys.getLsbD k)

/-- The number of the `i`-th register of a bulk transfer (R144, R145). -/
def regNum (i : Nat) : Reg := BitVec.ofNat 4 i

/-- `MemWrite(I + i, 1, V[i])` for `i` from 0 to `n - 1`, in increasing order (R144). -/
def State.storeUpTo (s : State) : Nat → State
  | 0 => s
  | n + 1 => (s.storeUpTo n).writeByte (s.indexed n) (s.getV (regNum n))

/-- `V[i] <- MemRead(I + i, 1)` for `i` from 0 to `n - 1`; every byte is read from the state before the instruction
(R120, R145). -/
def State.loadUpTo (s : State) : Nat → State
  | 0 => s
  | n + 1 => (s.loadUpTo n).setV (regNum n) (s.readByte (s.indexed n))

/-- Whether the sprite row `b` has its pixel with column offset `col` set: bit 7 is the leftmost (R152). -/
def spriteBit (b : Byte) (col : Nat) : Bool := b.getLsbD (7 - col)

/-- One pixel of DRW on the framebuffer and the collision so far (R151, R155): a set sprite bit toggles the pixel, and
is a collision if the pixel was lit. -/
def plot (p : Framebuffer × Bool) (r c : Nat) (bit : Bool) : Framebuffer × Bool :=
  if bit then (flipPixel p.1 r c, p.2 || pixel p.1 r c) else p

/-- The columns 0 to `k - 1` of one sprite row (R151). -/
def plotRow (b : Byte) (r vx : Nat) (p : Framebuffer × Bool) : Nat → Framebuffer × Bool
  | 0 => p
  | k + 1 => plot (plotRow b r vx p k) r (vx + k) (spriteBit b k)

/-- The sprite rows 0 to `k - 1` of DRW at column `vx`, row `vy`: the framebuffer after them and whether some lit pixel
was turned off (R151 to R155). -/
def State.plotSprite (s : State) (vx vy : Nat) : Nat → Framebuffer × Bool
  | 0 => (s.fb, false)
  | k + 1 => plotRow (s.readByte (s.indexed k)) (vy + k) vx (s.plotSprite vx vy k) 8

end Sys2Proof.Machine
end

