-- ==== Sys2Proof/Machine/Alu.lean ====
section
/-! DEFINITION. Loads, arithmetic, logic, shifts and the random byte (spec/42_alu.md R120 to R134). The operands are
read from the state `s` before any write (R120); a flag is written after the result (R121). -/

namespace Sys2Proof.Machine

/-- LD Vx,kk (R122). -/
def execLdImm (x : Reg) (kk : Byte) (s : State) : Out := .next (s.setV x kk).advance

/-- ADD Vx,kk (R123): no flag. -/
def execAddImm (x : Reg) (kk : Byte) (s : State) : Out := .next (s.setV x (sumByte (s.getV x) kk)).advance

/-- LD Vx,Vy (R124). -/
def execLdReg (x y : Reg) (s : State) : Out := .next (s.setV x (s.getV y)).advance

/-- OR Vx,Vy (R125): no flag. -/
def execOrReg (x y : Reg) (s : State) : Out := .next (s.setV x (s.getV x ||| s.getV y)).advance

/-- AND Vx,Vy (R126): no flag. -/
def execAndReg (x y : Reg) (s : State) : Out := .next (s.setV x (s.getV x &&& s.getV y)).advance

/-- XOR Vx,Vy (R127): no flag. -/
def execXorReg (x y : Reg) (s : State) : Out := .next (s.setV x (s.getV x ^^^ s.getV y)).advance

/-- ADD Vx,Vy (R128). -/
def execAddReg (x y : Reg) (s : State) : Out :=
  .next (s.setVFlag x (sumByte (s.getV x) (s.getV y)) (carryFlag (s.getV x) (s.getV y))).advance

/-- SUB Vx,Vy (R129). -/
def execSubReg (x y : Reg) (s : State) : Out :=
  .next (s.setVFlag x (diffByte (s.getV x) (s.getV y)) (greaterFlag (s.getV x) (s.getV y))).advance

/-- SHR Vx (R130): the field y is ignored (R76). -/
def execShr (x _y : Reg) (s : State) : Out :=
  .next (s.setVFlag x (shrByte (s.getV x)) (lowBitFlag (s.getV x))).advance

/-- SUBN Vx,Vy (R131). -/
def execSubnReg (x y : Reg) (s : State) : Out :=
  .next (s.setVFlag x (diffByte (s.getV y) (s.getV x)) (greaterFlag (s.getV y) (s.getV x))).advance

/-- SHL Vx (R132): the field y is ignored (R76). -/
def execShl (x _y : Reg) (s : State) : Out :=
  .next (s.setVFlag x (shlByte (s.getV x)) (highBitFlag (s.getV x))).advance

/-- RND Vx,kk (R133): the random byte is the input of this Tick (R38). -/
def execRnd (x : Reg) (kk : Byte) (s : State) : Out := .next (s.setV x (s.inputs.rnd &&& kk)).advance

end Sys2Proof.Machine
end

