-- ==== Sys2Proof/Machine/Display.lean ====
section
/-! DEFINITION. The display (spec/44_display.md R150 to R156). -/

namespace Sys2Proof.Machine

/-- CLS (R150): no flag. -/
def execCls (s : State) : Out := .next (s.setFb blankFb).advance

/-- DRW Vx,Vy,n (R151): the coordinates are read before VF is written, and VF is written always. -/
def execDrw (x y : Reg) (n : BitVec 4) (s : State) : Out :=
  let p := s.plotSprite (s.getV x).toNat (s.getV y).toNat n.toNat
  .next ((s.setFb p.1).setV vf (flagByte p.2)).advance

end Sys2Proof.Machine
end

