-- ==== Sys2Proof/Machine/Flow.lean ====
section
/-! DEFINITION. Control transfer (spec/41_flow.md R110 to R119): RET, JP, CALL, the skips, JP V0, and the operation
of an unknown word. `s.pc` is the address of the instruction being executed (R24). -/

namespace Sys2Proof.Machine

/-- RET (R110): the popped entry becomes PC, with nothing added. -/
def execRet (s : State) : Out := s.pop (fun a t => .next (t.setPc a))

/-- JP nnn (R111). -/
def execJp (nnn : Addr12) (s : State) : Out := .next (s.setPc (addrWord nnn))

/-- CALL nnn (R112): pushes the address of the following instruction. -/
def execCall (nnn : Addr12) (s : State) : Out := s.push (s.pc + 2) (fun t => .next (t.setPc (addrWord nnn)))

/-- SE Vx,kk (R113). -/
def execSeImm (x : Reg) (kk : Byte) (s : State) : Out := .next (s.skipIf (s.getV x == kk))

/-- SNE Vx,kk (R114). -/
def execSneImm (x : Reg) (kk : Byte) (s : State) : Out := .next (s.skipIf (s.getV x != kk))

/-- SE Vx,Vy (R115). -/
def execSeReg (x y : Reg) (s : State) : Out := .next (s.skipIf (s.getV x == s.getV y))

/-- SNE Vx,Vy (R116): the values are compared, not the register numbers. -/
def execSneReg (x y : Reg) (s : State) : Out := .next (s.skipIf (s.getV x != s.getV y))

/-- JP V0,nnn (R117): the sum is not reduced to 12 bits. -/
def execJpV0 (nnn : Addr12) (s : State) : Out := .next (s.setPc (byteWord (s.getV 0) + addrWord nnn))

/-- The operation of a word that is no instruction (R118): it completes, and reports the word. -/
def execUnknown (w : Word) (s : State) : Out := .next (s.advance.setResult (.unknownOpcode w))

end Sys2Proof.Machine
end

