-- ==== Sys2Proof/Machine/Index.lean ====
section
/-! DEFINITION. The index register and memory (spec/43_index_memory.md R140 to R146). None of the loads and stores
changes I (R146). -/

namespace Sys2Proof.Machine

/-- LD I,nnn (R140). -/
def execLdIndex (nnn : Addr12) (s : State) : Out := .next (s.setIndex (addrWord nnn)).advance

/-- ADD I,Vx (R141): 16 bits, no flag. -/
def execAddIndex (x : Reg) (s : State) : Out := .next (s.setIndex (s.index + byteWord (s.getV x))).advance

/-- LD F,Vx (R142): all 8 bits of Vx are used. -/
def execLdFont (x : Reg) (s : State) : Out :=
  .next (s.setIndex (BitVec.ofNat 16 ((s.getV x).toNat * Config.glyphBytes))).advance

/-- LD B,Vx (R143). -/
def execLdBcd (x : Reg) (s : State) : Out :=
  .next (((s.writeByte (s.indexed 0) (hundreds (s.getV x))).writeByte (s.indexed 1) (tens (s.getV x))).writeByte
    (s.indexed 2) (ones (s.getV x))).advance

/-- LD [I],Vx (R144): V0 to Vx, `x + 1` bytes. -/
def execStoreRegs (x : Reg) (s : State) : Out := .next (s.storeUpTo (x.toNat + 1)).advance

/-- LD Vx,[I] (R145): V0 to Vx, `x + 1` bytes. -/
def execLoadRegs (x : Reg) (s : State) : Out := .next (s.loadUpTo (x.toNat + 1)).advance

end Sys2Proof.Machine
end

