-- ==== Sys2Proof/Machine/Keys.lean ====
section
/-! DEFINITION. Keys and timers (spec/45_keys_timers.md R160 to R166). -/

namespace Sys2Proof.Machine

/-- SKP Vx (R160). -/
def execSkp (x : Reg) (s : State) : Out := .next (s.skipIf (s.keyPressed x))

/-- SKNP Vx (R161). -/
def execSknp (x : Reg) (s : State) : Out := .next (s.skipIf (!s.keyPressed x))

/-- LD Vx,K (R162): enters the wait and moves on; no key is read in this Tick. -/
def execLdVxKey (x : Reg) (s : State) : Out := .next (s.setEs (.awaitingKey x)).advance

/-- LD Vx,DT (R163). -/
def execLdVxDt (x : Reg) (s : State) : Out := .next (s.setV x s.dt).advance

/-- LD DT,Vx (R164): the reference becomes this Tick's time. -/
def execLdDtVx (x : Reg) (s : State) : Out := .next (s.setDelay (s.getV x) s.inputs.now).advance

/-- LD ST,Vx (R165): the reference becomes this Tick's time. -/
def execLdStVx (x : Reg) (s : State) : Out := .next (s.setSound (s.getV x) s.inputs.now).advance

end Sys2Proof.Machine
end

