-- ==== Sys2Proof/Machine/Tick.lean ====
section
/-! DEFINITION. The transaction Tick (spec/40_tick_cycle.md R90 to R104): the key-wait poll, the timer advance, the
fetch, and the choice between them. -/

namespace Sys2Proof.Machine

/-- The inputs of a Tick are sampled once at its start (R35), and its result is OK unless a rule says otherwise (R12). -/
def State.sample (s : State) (inp : TickInputs) : State := { s with inputs := inp, result := .ok }

/-- The key-wait poll (R92): the least pressed key goes to `V[x]` and the wait ends; with no key pressed nothing changes. -/
def State.poll (s : State) (x : Reg) : State :=
  match leastKey s.inputs.keys with
  | none => s
  | some k => (s.setV x (BitVec.ofNat 8 k)).setEs .running

/-- Whether a timer with value `t` and reference `ref` is decremented at time `now` (R95): it is running, and at least one
interval has elapsed. -/
def timerDue (t : Byte) (ref now t60 : Nat) : Bool := decide (0 < t.toNat) && decide (ref + t60 ≤ now)

/-- The delay timer's part of the timer advance (R95): at most one decrement, and the reference becomes `now`. -/
def State.advanceDelay (s : State) : State :=
  if timerDue s.dt s.dtRef s.inputs.now s.t60 then s.setDelay (s.dt - 1) s.inputs.now else s

/-- The sound timer's part of the timer advance (R95). -/
def State.advanceSound (s : State) : State :=
  if timerDue s.st s.stRef s.inputs.now s.t60 then s.setSound (s.st - 1) s.inputs.now else s

/-- The timer advance (R95): the two timers, each against its own reference. -/
def State.advanceTimers (s : State) : State := s.advanceDelay.advanceSound

/-- The fetch (R53, R99): two bytes, the most significant at the lower address. -/
def State.fetch (s : State) : Word := wordOfBytes (s.readByte s.pc.toNat) (s.readByte (s.pc.toNat + 1))

/-- Executes what a word decodes to (R100). -/
def execDecoded (d : Decoded) (s : State) : Out :=
  match d with
  | .known i => exec i s
  | .unknown w => execUnknown w s

/-- A Tick in execution state Running (R91, case 2): timers, fetch, decode, execute, in this order. -/
def State.runInstruction (s : State) : Out := execDecoded (decode s.advanceTimers.fetch) s.advanceTimers

/-- A Tick whose inputs have been sampled (R91, R102). -/
def tick (s : State) : Out :=
  match s.es with
  | .awaitingKey x => .next (s.poll x)
  | .running => s.runInstruction

end Sys2Proof.Machine
end

