-- ==== Sys2Proof/Machine/Transactions.lean ====
section
/-! DEFINITION. The transactions of the host (spec/00_scope.md R8, spec/70_reset_and_hazards.md R190 to R195) and
which one comes next. -/

namespace Sys2Proof.Machine

/-- Init (R190): the state of R41. The parameter and the host's plans stay; the bytes from 0x050 up are unspecified
anew (R195), so the count of Inits goes up. -/
def State.init (s : State) : State :=
  { State.reset with t60 := s.t60, host := s.host, freeTicks := s.freeTicks, inits := s.inits + 1 }

/-- The ROM bytes from number `i` on, copied to 0x200 upward as far as the ceiling (R192). -/
def Memory.loadFrom (m : Memory) (i : Nat) : List Byte → Memory
  | [] => m
  | b :: rom =>
    if i < Config.romMax then Memory.loadFrom (Memory.insert m (a12 (Config.romBase + i)) b) (i + 1) rom else m

/-- LoadROM (R192): nothing but memory changes. -/
def State.loadRom (s : State) (rom : List Byte) : State := s.setMem (Memory.loadFrom s.mem 0 rom)

/-- The inputs of a Tick that the host's list does not describe: free values (R36, R37, R38). Log 1. -/
def freeInputs (k : Nat) : TickInputs := ⟨Config.freeKeys k, Config.freeNow k, Config.freeRnd k⟩

/-- The next transaction of the host, and the state without it: the head of the list, or a Tick with free inputs when
the list is empty. Log 1. -/
def State.takeTransaction (s : State) : Transaction × State :=
  match s.host with
  | [] => (.tick (freeInputs s.freeTicks), { s with freeTicks := s.freeTicks + 1 })
  | t :: rest => (t, { s with host := rest })

/-- A transaction's effect (R8). Before the first Init only Init has one (R195). -/
def performTransaction (t : Transaction) (s : State) : Out :=
  match t with
  | .init => .next s.init
  | .loadRom rom =>
    match s.phase with
    | .beforeInit => .refused .beforeInit
    | .initialised => .next (s.loadRom rom)
  | .tick inp =>
    match s.phase with
    | .beforeInit => .refused .beforeInit
    | .initialised => tick (s.sample inp)

/-- The host's list with a Tick as its next transaction: as it is if it starts with one or is empty, else empty. -/
def hostAtTick : List Transaction → List Transaction
  | .tick inp :: rest => .tick inp :: rest
  | _ => []

/-- The state with the word `w` at PC, where the next Tick fetches (R53, R99). -/
def State.placeWord (s : State) (w : Word) : State :=
  (s.writeByte s.pc.toNat (highByte w)).writeByte (s.pc.toNat + 1) (lowByte w)

/-- The state whose next transaction is a Tick in execution state Running, with everything else as it was. -/
def State.readyToRun (s : State) : State :=
  { s with phase := .initialised, es := .running, host := hostAtTick s.host }

end Sys2Proof.Machine
end

