-- ==== Sys2Proof/Machine/Step.lean ====
section
/-! DEFINITION. One step of the machine: one transaction of the host (spec/00_scope.md R8). A program comes to run by
Init, LoadROM and Ticks (R194); log 11. -/

namespace Sys2Proof.Machine

/-- One step: takes the host's next transaction and performs it (R8, R90). -/
def step (s : State) : Host.Outcome State Fault Refusal :=
  performTransaction s.takeTransaction.1 s.takeTransaction.2

/-- The state with the instruction of `decodeTableWord nbits w` placed where the next step fetches, and that step a
Tick that executes. Log 11. -/
def State.withFetchWord (s : State) (nbits w : Nat) : State := s.readyToRun.placeWord (tableWord nbits w)

end Sys2Proof.Machine
end

