-- ==== Sys2Proof/Safety.lean ====
section
/-! DEFINITION. The terms in which claims about the machine are made: which components a step leaves alone, the
invariant of the core's state, a clean Tick, the end of a run, and where a sprite's set bits fall. -/

namespace Sys2Proof.Machine

/-- The components of the state, as claims about frames name them. -/
inductive Component where
  | v | index | pc | stack | delay | sound | es | fb | mem | inputs | result | t60 | phase | host | inits
  deriving DecidableEq, Repr

/-- `t` has the same component as `s`. For memory: every byte of every address reads as before. -/
def SameOn (s t : State) : Component → Prop
  | .v => ∀ r : Reg, t.getV r = s.getV r
  | .index => t.index = s.index
  | .pc => t.pc = s.pc
  | .stack => t.stack = s.stack
  | .delay => t.dt = s.dt ∧ t.dtRef = s.dtRef
  | .sound => t.st = s.st ∧ t.stRef = s.stRef
  | .es => t.es = s.es
  | .fb => t.fb = s.fb
  | .mem => ∀ a : Nat, t.readByte a = s.readByte a
  | .inputs => t.inputs = s.inputs
  | .result => t.result = s.result
  | .t60 => t.t60 = s.t60
  | .phase => t.phase = s.phase
  | .host => t.host = s.host ∧ t.freeTicks = s.freeTicks
  | .inits => t.inits = s.inits

/-- From `s` to `t` no component changes but the listed ones. -/
def OnlyChanges (s t : State) (cs : List Component) : Prop := ∀ c : Component, c ∉ cs → SameOn s t c

/-- The program counter has moved `n` bytes on, modulo 65536 (R25). -/
def PcMoved (s t : State) (n : Nat) : Prop := t.pc.toNat = (s.pc.toNat + n) % 65536

/-- No general register changes but the listed ones. -/
def OnlyRegs (s t : State) (xs : List Reg) : Prop := ∀ r : Reg, r ∉ xs → t.getV r = s.getV r

/-- No byte of memory changes but those at the `n` addresses from `a` on, each reduced to 12 bits (R52, R56). -/
def OnlyBytes (s t : State) (a n : Nat) : Prop :=
  ∀ b : Nat, (∀ i, i < n → a12 (a + i) ≠ a12 b) → t.readByte b = s.readByte b

/-- The invariant of the core's state: the stack is within its capacity (R26), memory is in canonical form (R32), and
the parameter T60 is positive (R9). -/
def State.Inv (s : State) : Prop :=
  s.stack.length ≤ Config.stackDepth ∧ Memory.wf s.mem ∧ 0 < s.t60

/-- The next step of `s`, once an Init has happened, is the Tick that begins in `b`: the host's list starts with a Tick, or
is empty and the inputs are free (log 1); `b` is `s` with the transaction taken, its inputs sampled and the result OK (R35,
R90). -/
def TickBegins (s b : State) : Prop :=
  (∃ inp rest, s.host = .tick inp :: rest ∧ b = ({ s with host := rest } : State).sample inp) ∨
    (s.host = [] ∧ b = ({ s with freeTicks := s.freeTicks + 1 } : State).sample (freeInputs s.freeTicks))

/-- A Tick that reported nothing (R101): what a claim that a program is correct takes as part of its postcondition
(U5, U15). -/
def State.Clean (s : State) : Prop := s.result = .ok

/-- The end of a run, the spec's convention for claims (R205): Running, and the word at PC jumps to PC's own address. -/
def State.Ended (s : State) : Prop :=
  s.es = .running ∧ ∃ nnn : Addr12, decode s.fetch = .known (.jp nnn) ∧ nnn.toNat = a12 s.pc.toNat

/-- Some set bit of the sprite of `n` rows at I falls on the pixel at row `r`, column `c` when it is drawn at column `vx`,
row `vy` (R151 to R154). -/
def SpriteCovers (s : State) (vx vy n r c : Nat) : Prop :=
  ∃ row, row < n ∧ ∃ col, col < 8 ∧ (s.readByte (s.index.toNat + row)).getLsbD (7 - col) = true ∧
    (vy + row) % 32 = r ∧ (vx + col) % 64 = c

end Sys2Proof.Machine
end

