-- ==== Sys2Proof/Certificates/Slice0/Obligations.lean ====
section
/-! DEFINITION. The statements for the provers. Each docstring names the rule of spec/ that the statement formalises;
where a clause rests on one of the spec's own decisions (D<n> of spec/92_eei_decisions.md) or on a choice of the model
(log <n>), it says so. `∃ t, exec i s = .next t ∧ …` says that the instruction completes and what it leaves. -/

open Sys2Proof Sys2Proof.Machine

/-! ## Encoding -/

/-- Every instruction, with every operand at every value, is what its own word decodes to (R72, R75). The selector values
are the spec's decision D2. -/
def Obligations.DecodeOfEncodeIsTheInstruction : Prop := ∀ i : Instr, decode (encode i) = .known i

/-- Every word that decodes to an instruction is that instruction's word: decoding drops no bit, the ignored field `y` of
SHR and SHL included (R72, R75, R76). Decision D2; that `Instr` keeps the ignored field is the model's, log 10. -/
def Obligations.EncodeOfDecodeIsTheWord : Prop := ∀ (w : Word) (i : Instr), decode w = .known i → encode i = w

/-- A word is an instruction iff a row of the opcode table covers it, and then it is the instruction of such a row; else
the decoder answers the unknown marker with the word itself (R74, R75, R76; decision D3). -/
def Obligations.DecodesIffARowCoversTheWord : Prop :=
  ∀ w : Word,
    (wordWellFormed w = true → ∃ i : Instr, decode w = .known i ∧ i.row ∈ opcodeTable ∧ i.row.covers w = true) ∧
    (wordWellFormed w = false → decode w = .unknown w)

/-- No two rows of the opcode table cover the same word (R75). -/
def Obligations.NoTwoRowsCoverAWord : Prop :=
  ∀ (w : Word) (m n : Nat) (hm : m < opcodeTable.length) (hn : n < opcodeTable.length),
    (opcodeTable[m]).covers w = true → (opcodeTable[n]).covers w = true → m = n

/-- The words that decode to UNKNOWN, family by family (R77; decision D3). -/
def Obligations.UnknownWordsByFamily : Prop :=
  ∀ w : Word, decode w = .unknown w ↔
    (w.toNat / 4096 = 0 ∧ w ≠ 0x00E0 ∧ w ≠ 0x00EE) ∨
    (w.toNat / 4096 = 5 ∧ w.toNat % 16 ≠ 0) ∨
    (w.toNat / 4096 = 8 ∧ w.toNat % 16 ∈ [8, 9, 10, 11, 12, 13, 15]) ∨
    (w.toNat / 4096 = 9 ∧ w.toNat % 16 ≠ 0) ∨
    (w.toNat / 4096 = 14 ∧ w.toNat % 256 ∉ [0x9E, 0xA1]) ∨
    (w.toNat / 4096 = 15 ∧ w.toNat % 256 ∉ [0x07, 0x0A, 0x15, 0x18, 0x1E, 0x29, 0x33, 0x55, 0x65])

/-- The decoding procedure: which instruction each word is, and which of its bits are which operand (R72, R75, R78). The
selector values are the spec's decision D2, the strictness its decision D3. -/
def Obligations.EveryRowOfTheTableDecodes : Prop :=
  ∀ w : Word,
    let op := w.toNat / 4096
    let x : Reg := BitVec.ofNat 4 (w.toNat / 256)
    let y : Reg := BitVec.ofNat 4 (w.toNat / 16)
    let n : BitVec 4 := BitVec.ofNat 4 w.toNat
    let kk : Byte := BitVec.ofNat 8 w.toNat
    let nnn : Addr12 := BitVec.ofNat 12 w.toNat
    (w = 0x00E0 → decode w = .known .cls) ∧ (w = 0x00EE → decode w = .known .ret) ∧
    (op = 1 → decode w = .known (.jp nnn)) ∧ (op = 2 → decode w = .known (.call nnn)) ∧
    (op = 3 → decode w = .known (.seImm x kk)) ∧ (op = 4 → decode w = .known (.sneImm x kk)) ∧
    (op = 5 → n = 0 → decode w = .known (.seReg x y)) ∧
    (op = 6 → decode w = .known (.ldImm x kk)) ∧ (op = 7 → decode w = .known (.addImm x kk)) ∧
    (op = 8 → n = 0x0 → decode w = .known (.ldReg x y)) ∧ (op = 8 → n = 0x1 → decode w = .known (.orReg x y)) ∧
    (op = 8 → n = 0x2 → decode w = .known (.andReg x y)) ∧ (op = 8 → n = 0x3 → decode w = .known (.xorReg x y)) ∧
    (op = 8 → n = 0x4 → decode w = .known (.addReg x y)) ∧ (op = 8 → n = 0x5 → decode w = .known (.subReg x y)) ∧
    (op = 8 → n = 0x6 → decode w = .known (.shr x y)) ∧ (op = 8 → n = 0x7 → decode w = .known (.subnReg x y)) ∧
    (op = 8 → n = 0xE → decode w = .known (.shl x y)) ∧
    (op = 9 → n = 0 → decode w = .known (.sneReg x y)) ∧
    (op = 10 → decode w = .known (.ldIndex nnn)) ∧ (op = 11 → decode w = .known (.jpV0 nnn)) ∧
    (op = 12 → decode w = .known (.rnd x kk)) ∧ (op = 13 → decode w = .known (.drw x y n)) ∧
    (op = 14 → kk = 0x9E → decode w = .known (.skp x)) ∧ (op = 14 → kk = 0xA1 → decode w = .known (.sknp x)) ∧
    (op = 15 → kk = 0x07 → decode w = .known (.ldVxDt x)) ∧ (op = 15 → kk = 0x0A → decode w = .known (.ldVxKey x)) ∧
    (op = 15 → kk = 0x15 → decode w = .known (.ldDtVx x)) ∧ (op = 15 → kk = 0x18 → decode w = .known (.ldStVx x)) ∧
    (op = 15 → kk = 0x1E → decode w = .known (.addIndex x)) ∧ (op = 15 → kk = 0x29 → decode w = .known (.ldFont x)) ∧
    (op = 15 → kk = 0x33 → decode w = .known (.ldBcd x)) ∧ (op = 15 → kk = 0x55 → decode w = .known (.storeRegs x)) ∧
    (op = 15 → kk = 0x65 → decode w = .known (.loadRegs x))

/-- At least one word of each of the sixteen families, written out from the patterns of R75, and what it decodes to. The
selector values are the spec's decision D2; that 0x5121 is unknown, and not a near neighbour, is its decision D3. -/
def Obligations.WrittenOutWordsDecode : Prop :=
  decode 0x00E0 = .known .cls ∧ decode 0x1ABC = .known (.jp 0xABC) ∧ decode 0x2ABC = .known (.call 0xABC) ∧
  decode 0x3A2B = .known (.seImm 0xA 0x2B) ∧ decode 0x4A2B = .known (.sneImm 0xA 0x2B) ∧
  decode 0x5AB0 = .known (.seReg 0xA 0xB) ∧ decode 0x6A2B = .known (.ldImm 0xA 0x2B) ∧
  decode 0x7A2B = .known (.addImm 0xA 0x2B) ∧ decode 0x8AB5 = .known (.subReg 0xA 0xB) ∧
  decode 0x8AB6 = .known (.shr 0xA 0xB) ∧ decode 0x9AB0 = .known (.sneReg 0xA 0xB) ∧
  decode 0xAABC = .known (.ldIndex 0xABC) ∧ decode 0xB123 = .known (.jpV0 0x123) ∧
  decode 0xCA2B = .known (.rnd 0xA 0x2B) ∧ decode 0xDABC = .known (.drw 0xA 0xB 0xC) ∧
  decode 0xEAA1 = .known (.sknp 0xA) ∧ decode 0xFA0A = .known (.ldVxKey 0xA) ∧
  decode 0xFA65 = .known (.loadRegs 0xA) ∧ decode 0x5121 = .unknown 0x5121 ∧ decode 0xF156 = .unknown 0xF156

/-! ## Control transfer -/

/-- RET with an entry on the stack pops it into PC, with nothing added (R110). -/
def Obligations.ReturnPopsIntoPc : Prop :=
  ∀ (s : State) (l : List Word) (a : Word), s.stack = l ++ [a] →
    ∃ t, exec .ret s = .next t ∧ t.pc = a ∧ t.stack = l ∧ OnlyChanges s t [.pc, .stack]

/-- JP sets PC to the zero-extended address, with no further 2; JP V0 to V0 plus the address, not reduced to 12 bits (R111,
R117). -/
def Obligations.JumpsSetPc : Prop :=
  ∀ (s : State) (nnn : Addr12),
    (∃ t, exec (.jp nnn) s = .next t ∧ t.pc.toNat = nnn.toNat ∧ OnlyChanges s t [.pc]) ∧
    (∃ t, exec (.jpV0 nnn) s = .next t ∧ t.pc.toNat = (s.getV 0).toNat + nnn.toNat ∧ OnlyChanges s t [.pc])

/-- CALL on a stack that is not full pushes the address of the following instruction and jumps (R112). The capacity of 16
is the spec's decision D9. -/
def Obligations.CallPushesAndJumps : Prop :=
  ∀ (s : State) (nnn : Addr12), s.stack.length < 16 →
    ∃ t a, exec (.call nnn) s = .next t ∧ t.stack = s.stack ++ [a] ∧ a.toNat = (s.pc.toNat + 2) % 65536 ∧
      t.pc.toNat = nnn.toNat ∧ OnlyChanges s t [.pc, .stack]

/-- CALL on a full stack reports STACK_OVERFLOW, RET on an empty one STACK_UNDERFLOW; neither writes anything else, and PC
still addresses the instruction (R172, R173, R174; decisions D9, D10). -/
def Obligations.StackErrorsWriteNothing : Prop :=
  ∀ (s : State) (nnn : Addr12),
    (s.stack.length = 16 → ∃ t, exec (.call nnn) s = .next t ∧ t.result = .stackOverflow ∧ OnlyChanges s t [.result]) ∧
    (s.stack = [] → ∃ t, exec .ret s = .next t ∧ t.result = .stackUnderflow ∧ OnlyChanges s t [.result])

/-- SE Vx,kk and SNE Vx,kk move PC by 4 when the register equals, or differs from, the immediate, else by 2 (R113, R114). -/
def Obligations.ImmediateSkips : Prop :=
  ∀ (s : State) (x : Reg) (kk : Byte),
    (∃ t, exec (.seImm x kk) s = .next t ∧ OnlyChanges s t [.pc] ∧
      PcMoved s t (if s.getV x = kk then 4 else 2)) ∧
    (∃ t, exec (.sneImm x kk) s = .next t ∧ OnlyChanges s t [.pc] ∧
      PcMoved s t (if s.getV x ≠ kk then 4 else 2))

/-- SE Vx,Vy and SNE Vx,Vy move PC by 4 when the values are equal, or differ, else by 2 (R115, R116). -/
def Obligations.RegisterSkips : Prop :=
  ∀ (s : State) (x y : Reg),
    (∃ t, exec (.seReg x y) s = .next t ∧ OnlyChanges s t [.pc] ∧
      PcMoved s t (if s.getV x = s.getV y then 4 else 2)) ∧
    (∃ t, exec (.sneReg x y) s = .next t ∧ OnlyChanges s t [.pc] ∧
      PcMoved s t (if s.getV x ≠ s.getV y then 4 else 2))

/-! ## Loads, arithmetic, logic, shifts, random -/

/-- LD Vx,kk and LD Vx,Vy write one register and no flag (R122, R124). -/
def Obligations.RegisterLoads : Prop :=
  ∀ (s : State) (x y : Reg) (kk : Byte),
    (∃ t, exec (.ldImm x kk) s = .next t ∧ t.getV x = kk ∧ OnlyRegs s t [x] ∧ PcMoved s t 2 ∧
      OnlyChanges s t [.v, .pc]) ∧
    (∃ t, exec (.ldReg x y) s = .next t ∧ t.getV x = s.getV y ∧ OnlyRegs s t [x] ∧ PcMoved s t 2 ∧
      OnlyChanges s t [.v, .pc])

/-- ADD Vx,kk adds modulo 256 and touches no other register, VF included (R123). -/
def Obligations.AddImmediateWrapsWithoutFlag : Prop :=
  ∀ (s : State) (x : Reg) (kk : Byte),
    ∃ t, exec (.addImm x kk) s = .next t ∧ (t.getV x).toNat = ((s.getV x).toNat + kk.toNat) % 256 ∧
      OnlyRegs s t [x] ∧ PcMoved s t 2 ∧ OnlyChanges s t [.v, .pc]

/-- OR, AND and XOR work bit by bit and touch no other register, VF included (R125, R126, R127). -/
def Obligations.LogicWorksBitByBitWithoutFlag : Prop :=
  ∀ (s : State) (x y : Reg),
    (∃ t, exec (.orReg x y) s = .next t ∧
      (∀ k, k < 8 → (t.getV x).getLsbD k = ((s.getV x).getLsbD k || (s.getV y).getLsbD k)) ∧
      OnlyRegs s t [x] ∧ PcMoved s t 2 ∧ OnlyChanges s t [.v, .pc]) ∧
    (∃ t, exec (.andReg x y) s = .next t ∧
      (∀ k, k < 8 → (t.getV x).getLsbD k = ((s.getV x).getLsbD k && (s.getV y).getLsbD k)) ∧
      OnlyRegs s t [x] ∧ PcMoved s t 2 ∧ OnlyChanges s t [.v, .pc]) ∧
    (∃ t, exec (.xorReg x y) s = .next t ∧
      (∀ k, k < 8 → (t.getV x).getLsbD k = ((s.getV x).getLsbD k ^^ (s.getV y).getLsbD k)) ∧
      OnlyRegs s t [x] ∧ PcMoved s t 2 ∧ OnlyChanges s t [.v, .pc])

/-- ADD Vx,Vy: VF is 1 exactly when the true sum exceeds 255, and Vx is the sum modulo 256 unless x = F (R128). That the
flag is what VF holds when x = F, and that operands are read first, is the spec's decision D12. -/
def Obligations.AddRegistersWithCarry : Prop :=
  ∀ (s : State) (x y : Reg),
    ∃ t, exec (.addReg x y) s = .next t ∧
      t.getV 0xF = (if (s.getV x).toNat + (s.getV y).toNat > 255 then 1 else 0) ∧
      (x ≠ 0xF → (t.getV x).toNat = ((s.getV x).toNat + (s.getV y).toNat) % 256) ∧
      OnlyRegs s t [x, 0xF] ∧ PcMoved s t 2 ∧ OnlyChanges s t [.v, .pc]

/-- SUB and SUBN: VF is 1 exactly when the minuend is strictly greater, and Vx is the difference modulo 256 unless x = F
(R129, R131, R134). That the flag is what VF holds when x = F, and that operands are read first, is decision D12. -/
def Obligations.SubtractionsWithStrictFlag : Prop :=
  ∀ (s : State) (x y : Reg),
    (∃ t, exec (.subReg x y) s = .next t ∧
      t.getV 0xF = (if (s.getV x).toNat > (s.getV y).toNat then 1 else 0) ∧
      (x ≠ 0xF → ((t.getV x).toNat : Int) = ((s.getV x).toNat - (s.getV y).toNat : Int) % 256) ∧
      OnlyRegs s t [x, 0xF] ∧ PcMoved s t 2 ∧ OnlyChanges s t [.v, .pc]) ∧
    (∃ t, exec (.subnReg x y) s = .next t ∧
      t.getV 0xF = (if (s.getV y).toNat > (s.getV x).toNat then 1 else 0) ∧
      (x ≠ 0xF → ((t.getV x).toNat : Int) = ((s.getV y).toNat - (s.getV x).toNat : Int) % 256) ∧
      OnlyRegs s t [x, 0xF] ∧ PcMoved s t 2 ∧ OnlyChanges s t [.v, .pc])

/-- SHR and SHL, whatever y is: VF is the bit shifted out, as 0 or 1, and Vx is halved, or doubled modulo 256, unless x = F
(R130, R132, R76). That the flag is what VF holds when x = F is decision D12. -/
def Obligations.ShiftsByOne : Prop :=
  ∀ (s : State) (x y : Reg),
    (∃ t, exec (.shr x y) s = .next t ∧ (t.getV 0xF).toNat = (s.getV x).toNat % 2 ∧
      (x ≠ 0xF → (t.getV x).toNat = (s.getV x).toNat / 2) ∧
      OnlyRegs s t [x, 0xF] ∧ PcMoved s t 2 ∧ OnlyChanges s t [.v, .pc]) ∧
    (∃ t, exec (.shl x y) s = .next t ∧ (t.getV 0xF).toNat = (s.getV x).toNat / 128 ∧
      (x ≠ 0xF → (t.getV x).toNat = (s.getV x).toNat * 2 % 256) ∧
      OnlyRegs s t [x, 0xF] ∧ PcMoved s t 2 ∧ OnlyChanges s t [.v, .pc])

/-- RND Vx,kk: the Tick's random byte under the mask (R133). -/
def Obligations.RandomByteUnderMask : Prop :=
  ∀ (s : State) (x : Reg) (kk : Byte),
    ∃ t, exec (.rnd x kk) s = .next t ∧
      (∀ k, k < 8 → (t.getV x).getLsbD k = (s.inputs.rnd.getLsbD k && kk.getLsbD k)) ∧
      OnlyRegs s t [x] ∧ PcMoved s t 2 ∧ OnlyChanges s t [.v, .pc]

/-! ## Index register and memory -/

/-- LD I,nnn writes the zero-extended address to I (R140). -/
def Obligations.LoadIndex : Prop :=
  ∀ (s : State) (nnn : Addr12),
    ∃ t, exec (.ldIndex nnn) s = .next t ∧ t.index.toNat = nnn.toNat ∧ PcMoved s t 2 ∧ OnlyChanges s t [.index, .pc]

/-- ADD I,Vx adds modulo 65536 and writes no flag (R141; the wrap is the spec's decision D6). -/
def Obligations.AddToIndexWrapsWithoutFlag : Prop :=
  ∀ (s : State) (x : Reg),
    ∃ t, exec (.addIndex x) s = .next t ∧ t.index.toNat = (s.index.toNat + (s.getV x).toNat) % 65536 ∧
      PcMoved s t 2 ∧ OnlyChanges s t [.index, .pc]

/-- LD F,Vx sets I to Vx times 5, with all 8 bits of Vx (R142; decision D26). -/
def Obligations.FontAddressIsFiveTimesVx : Prop :=
  ∀ (s : State) (x : Reg),
    ∃ t, exec (.ldFont x) s = .next t ∧ t.index.toNat = (s.getV x).toNat * 5 ∧
      PcMoved s t 2 ∧ OnlyChanges s t [.index, .pc]

/-- LD B,Vx stores three decimal digits at I, I + 1, I + 2, each address reduced to 12 bits, which make up Vx; no other
byte changes, and I is unchanged (R143; the mask is the spec's decision D5, the unchanged I its decision D25). -/
def Obligations.BcdStoresTheDigitsOfVx : Prop :=
  ∀ (s : State) (x : Reg),
    ∃ t, exec (.ldBcd x) s = .next t ∧
      (t.readByte s.index.toNat).toNat * 100 + (t.readByte (s.index.toNat + 1)).toNat * 10 +
        (t.readByte (s.index.toNat + 2)).toNat = (s.getV x).toNat ∧
      (t.readByte s.index.toNat).toNat ≤ 2 ∧ (t.readByte (s.index.toNat + 1)).toNat ≤ 9 ∧
      (t.readByte (s.index.toNat + 2)).toNat ≤ 9 ∧
      OnlyBytes s t s.index.toNat 3 ∧ PcMoved s t 2 ∧ OnlyChanges s t [.mem, .pc]

/-- LD [I],Vx stores V0 to Vx at I upward, each address reduced to 12 bits; no other byte changes, and I is unchanged
(R144; decisions D5, D25). -/
def Obligations.BulkStoreCopiesRegisters : Prop :=
  ∀ (s : State) (x : Reg),
    ∃ t, exec (.storeRegs x) s = .next t ∧
      (∀ r : Reg, r.toNat ≤ x.toNat → t.readByte (s.index.toNat + r.toNat) = s.getV r) ∧
      OnlyBytes s t s.index.toNat (x.toNat + 1) ∧ PcMoved s t 2 ∧ OnlyChanges s t [.mem, .pc]

/-- LD Vx,[I] loads V0 to Vx from I upward; registers above Vx, memory and I are unchanged (R145; decisions D5, D25). -/
def Obligations.BulkLoadCopiesMemory : Prop :=
  ∀ (s : State) (x : Reg),
    ∃ t, exec (.loadRegs x) s = .next t ∧
      (∀ r : Reg, r.toNat ≤ x.toNat → t.getV r = s.readByte (s.index.toNat + r.toNat)) ∧
      (∀ r : Reg, x.toNat < r.toNat → t.getV r = s.getV r) ∧ PcMoved s t 2 ∧ OnlyChanges s t [.v, .pc]

/-- Storing V0..Vx and loading them back, with I and memory as the store left them and the registers and everything else
arbitrary in between, reproduces the register values (R145, the round trip). -/
def Obligations.BulkStoreThenLoadRoundTrip : Prop :=
  ∀ (s t u w : State) (x : Reg), exec (.storeRegs x) s = .next t → SameOn t u .index → SameOn t u .mem →
    exec (.loadRegs x) u = .next w → ∀ r : Reg, r.toNat ≤ x.toNat → w.getV r = s.getV r

/-- A word that LD [I],Vx stores is the word that is fetched from its address afterwards, wherever PC then points to it
(R62). -/
def Obligations.StoredBytesAreFetched : Prop :=
  ∀ (s t : State) (x : Reg) (a : Word) (i : Nat), exec (.storeRegs x) s = .next t → i < x.toNat →
    a.toNat % 4096 = (s.index.toNat + i) % 4096 →
    (t.setPc a).fetch.toNat = (s.getV (BitVec.ofNat 4 i)).toNat * 256 + (s.getV (BitVec.ofNat 4 (i + 1))).toNat

/-! ## Display -/

/-- CLS turns every pixel off and writes no flag (R150). -/
def Obligations.ClearScreenBlanksEveryPixel : Prop :=
  ∀ s : State,
    ∃ t, exec .cls s = .next t ∧ (∀ r c : Nat, pixel t.fb r c = false) ∧ PcMoved s t 2 ∧ OnlyChanges s t [.fb, .pc]

/-- DRW toggles exactly the pixels that a set bit of the sprite falls on, and VF is 1 iff one of those was lit before, else
0; no other register and no other component changes (R151 to R156). Column wrap is the spec's decision D14, bit order its
decision D13, old VF as a coordinate its decision D12, the unchanged I its decision D25. -/
def Obligations.DrawTogglesTheSpriteAndReportsCollision : Prop :=
  ∀ (s : State) (x y : Reg) (n : BitVec 4),
    ∃ t, exec (.drw x y n) s = .next t ∧
      (∀ r c : Nat, r < 32 → c < 64 →
        (SpriteCovers s (s.getV x).toNat (s.getV y).toNat n.toNat r c → pixel t.fb r c = !pixel s.fb r c) ∧
        (¬ SpriteCovers s (s.getV x).toNat (s.getV y).toNat n.toNat r c → pixel t.fb r c = pixel s.fb r c)) ∧
      ((∃ r c : Nat, r < 32 ∧ c < 64 ∧ SpriteCovers s (s.getV x).toNat (s.getV y).toNat n.toNat r c ∧
        pixel s.fb r c = true) → t.getV 0xF = 1) ∧
      ((¬ ∃ r c : Nat, r < 32 ∧ c < 64 ∧ SpriteCovers s (s.getV x).toNat (s.getV y).toNat n.toNat r c ∧
        pixel s.fb r c = true) → t.getV 0xF = 0) ∧
      OnlyRegs s t [0xF] ∧ PcMoved s t 2 ∧ OnlyChanges s t [.v, .fb, .pc]

/-- Drawing the same sprite twice at the same place restores the framebuffer exactly, whatever happened in between to
everything but the framebuffer, I, memory and the two coordinates (R156). -/
def Obligations.DrawingTwiceRestoresTheFramebuffer : Prop :=
  ∀ (s t u w : State) (x y x' y' : Reg) (n : BitVec 4), exec (.drw x y n) s = .next t →
    SameOn t u .fb → SameOn t u .index → SameOn t u .mem → u.getV x' = s.getV x → u.getV y' = s.getV y →
    exec (.drw x' y' n) u = .next w → w.fb = s.fb

/-! ## Keys and timers -/

/-- SKP and SKNP move PC by 4 when key Vx mod 16 is, or is not, pressed in this Tick, else by 2 (R160, R161; the reduction
of the key index is the spec's decision D16). -/
def Obligations.KeySkips : Prop :=
  ∀ (s : State) (x : Reg),
    (∃ t, exec (.skp x) s = .next t ∧ OnlyChanges s t [.pc] ∧
      PcMoved s t (if s.inputs.keys.getLsbD ((s.getV x).toNat % 16) = true then 4 else 2)) ∧
    (∃ t, exec (.sknp x) s = .next t ∧ OnlyChanges s t [.pc] ∧
      PcMoved s t (if s.inputs.keys.getLsbD ((s.getV x).toNat % 16) = false then 4 else 2))

/-- LD Vx,K enters the wait for register x and moves on at once; no register is written (R162). -/
def Obligations.AwaitKeyEntersTheWait : Prop :=
  ∀ (s : State) (x : Reg),
    ∃ t, exec (.ldVxKey x) s = .next t ∧ t.es = .awaitingKey x ∧ PcMoved s t 2 ∧ OnlyChanges s t [.es, .pc]

/-- LD Vx,DT reads the delay timer, with no effect on it or its reference; LD DT,Vx sets the timer and its reference to this
Tick's time, whatever the value (R163, R164). -/
def Obligations.DelayTimerTransfers : Prop :=
  ∀ (s : State) (x : Reg),
    (∃ t, exec (.ldVxDt x) s = .next t ∧ t.getV x = s.dt ∧ OnlyRegs s t [x] ∧ PcMoved s t 2 ∧
      OnlyChanges s t [.v, .pc]) ∧
    (∃ t, exec (.ldDtVx x) s = .next t ∧ t.dt = s.getV x ∧ t.dtRef = s.inputs.now ∧ PcMoved s t 2 ∧
      OnlyChanges s t [.delay, .pc])

/-- LD ST,Vx sets the sound timer and its reference to this Tick's time (R165; the reference is the spec's decision D20). -/
def Obligations.SetSoundTimer : Prop :=
  ∀ (s : State) (x : Reg),
    ∃ t, exec (.ldStVx x) s = .next t ∧ t.st = s.getV x ∧ t.stRef = s.inputs.now ∧ PcMoved s t 2 ∧
      OnlyChanges s t [.sound, .pc]

/-! ## The Tick -/

/-- A step whose transaction is a Tick, in execution state Running, runs the instruction that the two bytes at PC decode
to, on the state with this Tick's inputs sampled, the result set to OK and the timers advanced, and adds nothing after it
(R91, R100, R102). The list of the host's transactions and the free inputs are the model's, log 1. -/
def Obligations.StepRunsTheDecodedInstruction : Prop :=
  ∀ (s : State) (i : Instr), s.phase = .initialised → s.es = .running →
    decode (wordOfBytes (s.readByte s.pc.toNat) (s.readByte (s.pc.toNat + 1))) = .known i →
    (∀ inp rest, s.host = .tick inp :: rest →
      step s = exec i (({ s with host := rest } : State).sample inp).advanceTimers) ∧
    (s.host = [] →
      step s = exec i (({ s with freeTicks := s.freeTicks + 1 } : State).sample (freeInputs s.freeTicks)).advanceTimers)

/-- A Tick that begins in `b`, Running, and whose word is no instruction: both timers are as the timer advance leaves them,
PC goes on by 2, the word is reported, and nothing else changes; and a step that is this Tick answers the same (R91, R95,
R101, R118; the empty rest is the spec's decision D29). The list of the host's transactions and the free inputs, behind
`TickBegins`, are the model's, log 1. -/
def Obligations.TickSkipsAnUnknownWord : Prop :=
  ∀ (b : State) (w : Word), b.es = .running → decode b.fetch = .unknown w →
    ∃ t, tick b = .next t ∧ (∀ s, s.phase = .initialised → TickBegins s b → step s = .next t) ∧
      t.result = .unknownOpcode b.fetch ∧ PcMoved b t 2 ∧
      SameOn b.advanceTimers t .delay ∧ SameOn b.advanceTimers t .sound ∧
      OnlyChanges b t [.delay, .sound, .pc, .result]

/-- The fetched word is the byte at PC and the byte after it, most significant first, both addresses reduced (R99). -/
def Obligations.FetchIsBigEndianAtReducedAddresses : Prop :=
  ∀ s : State, s.fetch.toNat =
    (s.readByte (s.pc.toNat % 4096)).toNat * 256 + (s.readByte ((s.pc.toNat + 1) % 4096)).toNat

/-- The key-wait poll of a Tick that begins in `b`: with keys pressed the least of them goes to V[x] and the state is Running
again; with none nothing changes at all; and a step that is this Tick answers the same, with the result OK (R91, R92). The
list of the host's transactions and the free inputs, behind `TickBegins`, and the place of the result are the model's, logs
1 and 3. -/
def Obligations.PollTakesTheLeastPressedKey : Prop :=
  ∀ (b : State) (x : Reg), b.es = .awaitingKey x →
    (∀ k, k < 16 → b.inputs.keys.getLsbD k = true → (∀ j, j < k → b.inputs.keys.getLsbD j = false) →
      ∃ t, tick b = .next t ∧
        (∀ s, s.phase = .initialised → TickBegins s b → step s = .next t ∧ t.result = .ok) ∧
        (t.getV x).toNat = k ∧ t.es = .running ∧ OnlyRegs b t [x] ∧ OnlyChanges b t [.v, .es]) ∧
    (b.inputs.keys = 0 → tick b = .next b ∧
      ∀ s, s.phase = .initialised → TickBegins s b → step s = .next b ∧ b.result = .ok)

/-- Any number of Ticks in a key wait with no key pressed leaves the whole state as it was, but for the host's list, the
sampled inputs and the result, which are the model's interface (R94; logs 1, 3). -/
def Obligations.WaitingWithoutKeysChangesNothing : Prop :=
  ∀ (s : State) (x : Reg) (inps : List TickInputs) (rest : List Transaction), s.phase = .initialised →
    s.es = .awaitingKey x → s.host = inps.map .tick ++ rest → (∀ inp ∈ inps, inp.keys = 0) →
    ∃ t, core.run inps.length s = .next t ∧ t.host = rest ∧ t.freeTicks = s.freeTicks ∧
      OnlyChanges s t [.host, .inputs, .result]

/-- The timer advance: each timer, against its own reference, loses 1 iff it is above 0 and an interval has passed, and its
reference is then this Tick's time (R95; decisions D18, D19, D20). -/
def Obligations.TimerAdvance : Prop :=
  ∀ s : State,
    (s.dt.toNat > 0 ∧ s.inputs.now ≥ s.dtRef + s.t60 →
      s.advanceTimers.dt.toNat = s.dt.toNat - 1 ∧ s.advanceTimers.dtRef = s.inputs.now) ∧
    (¬ (s.dt.toNat > 0 ∧ s.inputs.now ≥ s.dtRef + s.t60) → SameOn s s.advanceTimers .delay) ∧
    (s.st.toNat > 0 ∧ s.inputs.now ≥ s.stRef + s.t60 →
      s.advanceTimers.st.toNat = s.st.toNat - 1 ∧ s.advanceTimers.stRef = s.inputs.now) ∧
    (¬ (s.st.toNat > 0 ∧ s.inputs.now ≥ s.stRef + s.t60) → SameOn s s.advanceTimers .sound) ∧
    OnlyChanges s s.advanceTimers [.delay, .sound]

/-- A Tick takes at most 1 from the delay timer unless it executes LD DT,Vx, and takes 1 only if the state is Running, an
interval has passed since the reference, and it makes this Tick's time the new reference (R104 a and b). -/
def Obligations.ATickTakesAtMostOneFromTheDelayTimer : Prop :=
  ∀ s t : State, tick s = .next t → (∀ x : Reg, decode s.fetch ≠ .known (.ldDtVx x)) →
    (t.dt = s.dt ∧ t.dtRef = s.dtRef) ∨
    (s.es = .running ∧ t.dt.toNat + 1 = s.dt.toNat ∧ s.dtRef + s.t60 ≤ s.inputs.now ∧ t.dtRef = s.inputs.now)

/-- An error result leaves everything as it was: an instruction that raises writes nothing but the result (R174; decision
D10). -/
def Obligations.ErrorsArePrecise : Prop :=
  ∀ (s t : State) (i : Instr), s.result = .ok → exec i s = .next t → t.result ≠ .ok → OnlyChanges s t [.result]

/-! ## Transactions, reset, invariant -/

/-- The machine after reset, by the values that R41 gives; Running is the spec's decision D31. -/
def Obligations.ResetState : Prop :=
  (∀ r : Reg, State.reset.getV r = 0) ∧ State.reset.index = 0 ∧ State.reset.pc = 0x0200 ∧ State.reset.stack = [] ∧
  State.reset.dt = 0 ∧ State.reset.st = 0 ∧ State.reset.es = .running ∧
  (∀ r c : Nat, pixel State.reset.fb r c = false) ∧
  (∀ a : Nat, a < 80 → State.reset.readByte a = Config.font a)

/-- Init, from any state, before or after other transactions, gives R41's state again, with the glyphs in place and the
bytes from 0x050 up those of a new MEM_INIT (R190, R195; decisions D23, D27, D31; the count of Inits is the model's, log 5). -/
def Obligations.InitResetsFromAnyState : Prop :=
  ∀ (s : State) (rest : List Transaction), s.host = .init :: rest →
    ∃ t, step s = .next t ∧ (∀ r : Reg, t.getV r = 0) ∧ t.index = 0 ∧ t.pc = 0x0200 ∧ t.stack = [] ∧ t.dt = 0 ∧
      t.st = 0 ∧ t.es = .running ∧ (∀ r c : Nat, pixel t.fb r c = false) ∧ t.phase = .initialised ∧ t.host = rest ∧
      (∀ a : Nat, a < 80 → t.readByte a = Config.font a) ∧
      (∀ a : Nat, 80 ≤ a → a < 4096 → t.readByte a = Config.memInit (s.inits + 1) a)

/-- LoadROM copies byte i of the ROM to 0x200 + i as far as byte 3583, drops the rest, and changes nothing else (R192;
decision D30). -/
def Obligations.LoadRomCopiesUpToTheCeiling : Prop :=
  ∀ (s : State) (rom : List Byte) (rest : List Transaction), s.phase = .initialised → s.host = .loadRom rom :: rest →
    ∃ t, step s = .next t ∧ t.host = rest ∧ t.freeTicks = s.freeTicks ∧
      (∀ i (h : i < rom.length), i < 3584 → t.readByte (0x200 + i) = rom[i]) ∧
      (∀ a : Nat, a < 4096 → (a < 0x200 ∨ 0x200 + rom.length ≤ a) → t.readByte a = s.readByte a) ∧
      OnlyChanges s t [.mem, .host]

/-- Before the first Init a Tick is refused by name (R195; decision D27), and so is a LoadROM: this second clause is the
model's, read from the order of R194, log 12. -/
def Obligations.OnlyInitBeforeTheFirstInit : Prop :=
  ∀ s : State, s.phase = .beforeInit → (∀ rest, s.host ≠ .init :: rest) → step s = .refused .beforeInit

/-- After Init no step stops: a Tick, a LoadROM and an Init of any state answer a next state (R103, R176, R190, R192). That a
stack error is a next state is the model's reading, log 4; that a second LoadROM, or a Tick without one, goes on is the
spec's decision D27, taken by log 12. -/
def Obligations.AfterInitEveryStepCompletes : Prop :=
  ∀ s : State, s.phase = .initialised → ∃ t, step s = .next t ∧ t.phase = .initialised

/-- Every step keeps the invariant: at most 16 entries on the stack (R26; the number is the spec's decision D9), the list of
written bytes in canonical form inside 4096 addresses (the model's form of memory, log 5), and T60 positive (R9; that it
stands in the state is the model's, log 8). -/
def Obligations.StepKeepsTheInvariant : Prop := ∀ s t : State, s.Inv → step s = .next t → t.Inv

/-- The invariant holds after reset: the stack is empty, the list of written bytes is empty and so in the model's canonical
form (log 5), and the opaque T60 in the state is positive (log 8). The capacity is the spec's decision D9. -/
def Obligations.ResetMeetsTheInvariant : Prop := State.reset.Inv

/-! ## Whole-machine rules -/

/-- Only CALL and RET change the call stack: CALL by one entry on top, RET by the loss of the top (R27). -/
def Obligations.OnlyCallPushesAndOnlyRetPops : Prop :=
  ∀ (i : Instr) (s t : State), exec i s = .next t →
    t.stack = s.stack ∨ ((∃ nnn, i = .call nnn) ∧ ∃ a, t.stack = s.stack ++ [a]) ∨ (i = .ret ∧ ∃ a, s.stack = t.stack ++ [a])

/-- The framebuffer is changed by no instruction but CLS and DRW (R34). -/
def Obligations.OnlyClsAndDrwChangeTheFramebuffer : Prop :=
  ∀ (i : Instr) (s t : State), exec i s = .next t → i ≠ .cls → (∀ x y n, i ≠ .drw x y n) → t.fb = s.fb

/-- No instruction but LD B,Vx and LD [I],Vx changes a byte of memory (R50). -/
def Obligations.OnlyBcdAndBulkStoreWriteMemory : Prop :=
  ∀ (i : Instr) (s t : State), exec i s = .next t → (∀ x, i ≠ .ldBcd x) → (∀ x, i ≠ .storeRegs x) → SameOn s t .mem

/-- I is written by no instruction but LD I, ADD I and LD F, the timers and their references by none but LD DT and LD ST, the
execution state by none but LD Vx,K (R23, R28, R29, R31). -/
def Obligations.OnlyTheirInstructionsWriteIndexTimersAndWait : Prop :=
  ∀ (i : Instr) (s t : State), exec i s = .next t →
    ((∀ nnn, i ≠ .ldIndex nnn) → (∀ x, i ≠ .addIndex x) → (∀ x, i ≠ .ldFont x) → t.index = s.index) ∧
    ((∀ x, i ≠ .ldDtVx x) → SameOn s t .delay) ∧ ((∀ x, i ≠ .ldStVx x) → SameOn s t .sound) ∧
    ((∀ x, i ≠ .ldVxKey x) → SameOn s t .es)

/-- VF changes as a side effect of six instructions only: ADD Vx,Vy, SUB, SHR, SUBN, SHL and DRW. Any other instruction
that changes VF names it as its destination, or is a bulk load of all sixteen registers (R22). -/
def Obligations.OnlySixInstructionsWriteVfAsASideEffect : Prop :=
  ∀ (i : Instr) (s t : State), exec i s = .next t → t.getV 0xF ≠ s.getV 0xF →
    (∃ x y, i = .addReg x y ∨ i = .subReg x y ∨ i = .shr x y ∨ i = .subnReg x y ∨ i = .shl x y) ∨
    (∃ x y n, i = .drw x y n) ∨
    (∃ kk, i = .ldImm 0xF kk ∨ i = .addImm 0xF kk ∨ i = .rnd 0xF kk) ∨
    (∃ y, i = .ldReg 0xF y ∨ i = .orReg 0xF y ∨ i = .andReg 0xF y ∨ i = .xorReg 0xF y) ∨
    i = .ldVxDt 0xF ∨ i = .loadRegs 0xF

/-! ## What cannot be observed -/

/-- The random byte reaches no instruction but RND, the keys none but SKP and SKNP, the time none but LD DT and LD ST (R36,
R37, R38; decision D28). -/
def Obligations.InputsReachOnlyTheirInstructions : Prop :=
  ∀ (i : Instr) (s t : State), exec i s = .next t →
    (∀ b, (∀ x kk, i ≠ .rnd x kk) →
      exec i { s with inputs := { s.inputs with rnd := b } } = .next { t with inputs := { s.inputs with rnd := b } }) ∧
    (∀ k, (∀ x, i ≠ .skp x) → (∀ x, i ≠ .sknp x) →
      exec i { s with inputs := { s.inputs with keys := k } } = .next { t with inputs := { s.inputs with keys := k } }) ∧
    (∀ n, (∀ x, i ≠ .ldDtVx x) → (∀ x, i ≠ .ldStVx x) →
      exec i { s with inputs := { s.inputs with now := n } } = .next { t with inputs := { s.inputs with now := n } })

/-- The sound timer shows through nothing in the program: two runs of any length whose start states differ in the sound
timer and its reference alone end in states that differ there alone (R29). -/
def Obligations.SoundTimerIsUnobservable : Prop :=
  ∀ (k : Nat) (s t : State) (b : Byte) (n : Nat), core.run k s = .next t →
    ∃ b' n', core.run k (s.setSound b n) = .next (t.setSound b' n')

/-- The reference of an idle delay timer cannot be observed: Ticks from two states that differ in it alone give states that
are equal, or that again differ in it alone with the timer still idle (R41, R95; decision D21). -/
def Obligations.IdleDelayReferenceIsUnobservable : Prop :=
  ∀ (s t : State) (n : Nat), s.dt = 0 → tick s = .next t →
    tick (s.setDelay 0 n) = .next t ∨ (t.dt = 0 ∧ tick (s.setDelay 0 n) = .next (t.setDelay 0 n))

/-- The result of a Tick is not seen by the next one: a Tick answers the same whatever result the last one left (R39). -/
def Obligations.ResultIsAnOutputOnly : Prop :=
  ∀ (s : State) (r : TickResult), (∀ rest, s.host ≠ .init :: rest) → (∀ rom rest, s.host ≠ .loadRom rom :: rest) →
    step (s.setResult r) = step s

/-- At the end of a run, as the spec's convention has it, a Tick leaves everything but the timers as it was, PC in its low
12 bits, and the run is still ended (R205). -/
def Obligations.AnEndedRunStaysEnded : Prop :=
  ∀ s : State, s.Ended → ∃ t, tick s = .next t ∧ t.Ended ∧ a12 t.pc.toNat = a12 s.pc.toNat ∧
    OnlyChanges s t [.pc, .delay, .sound]
end

