-- ==== Sys2Proof/Laws/Decode.lean ====
section
/-! SUPPORT. The fields of a word and the words of the formats as numbers, and the two bytes of a word. -/

namespace Sys2Proof

theorem opField_toNat (w : Word) : (opField w).toNat = w.toNat / 4096 := by
  have := w.isLt
  simp only [opField, BitVec.extractLsb'_toNat, Nat.shiftRight_eq_div_pow]; omega

theorem xField_toNat (w : Word) : (xField w).toNat = w.toNat / 256 % 16 := by
  simp only [xField, BitVec.extractLsb'_toNat, Nat.shiftRight_eq_div_pow]

theorem yField_toNat (w : Word) : (yField w).toNat = w.toNat / 16 % 16 := by
  simp only [yField, BitVec.extractLsb'_toNat, Nat.shiftRight_eq_div_pow]

theorem nField_toNat (w : Word) : (nField w).toNat = w.toNat % 16 := by
  simp only [nField, BitVec.extractLsb'_toNat, Nat.shiftRight_eq_div_pow]; omega

theorem kkField_toNat (w : Word) : (kkField w).toNat = w.toNat % 256 := by
  simp only [kkField, BitVec.extractLsb'_toNat, Nat.shiftRight_eq_div_pow]; omega

theorem nnnField_toNat (w : Word) : (nnnField w).toNat = w.toNat % 4096 := by
  simp only [nnnField, BitVec.extractLsb'_toNat, Nat.shiftRight_eq_div_pow]; omega

theorem append_toNat {n m : Nat} (a : BitVec n) (b : BitVec m) : (a ++ b).toNat = a.toNat * 2 ^ m + b.toNat := by
  rw [BitVec.toNat_append, ← Nat.shiftLeft_add_eq_or_of_lt b.isLt, Nat.shiftLeft_eq]

theorem encodeXY_toNat (op : BitVec 4) (x y : Reg) (fn : BitVec 4) :
    (encodeXY op x y fn).toNat = op.toNat * 4096 + x.toNat * 256 + y.toNat * 16 + fn.toNat := by
  show (op ++ x ++ y ++ fn : BitVec (4 + 4 + 4 + 4)).toNat = _
  simp only [append_toNat]; omega

theorem encodeXK_toNat (op : BitVec 4) (x : Reg) (kk : Byte) :
    (encodeXK op x kk).toNat = op.toNat * 4096 + x.toNat * 256 + kk.toNat := by
  show (op ++ x ++ kk : BitVec (4 + 4 + 8)).toNat = _
  simp only [append_toNat]; omega

theorem encodeA_toNat (op : BitVec 4) (nnn : Addr12) : (encodeA op nnn).toNat = op.toNat * 4096 + nnn.toNat := by
  show (op ++ nnn : BitVec (4 + 12)).toNat = _
  simp only [append_toNat]; omega

theorem wordOfBytes_toNat (hi lo : Byte) : (wordOfBytes hi lo).toNat = hi.toNat * 256 + lo.toNat := by
  show (hi ++ lo : BitVec (8 + 8)).toNat = _
  simp only [append_toNat]; omega

/-- The two bytes of a word, put together in memory order, are the word (R53). -/
theorem wordOfBytes_highByte_lowByte (w : Word) : wordOfBytes (highByte w) (lowByte w) = w := by
  apply BitVec.eq_of_toNat_eq
  have := w.isLt
  simp only [wordOfBytes_toNat, highByte, lowByte, BitVec.extractLsb'_toNat, Nat.shiftRight_eq_div_pow]
  omega

/-- The unknown marker carries the word itself (R74). -/
theorem decode_unknown_word (w u : Word) (h : decode w = .unknown u) : u = w := by
  unfold decode at h
  repeat' split at h
  all_goals first
    | (cases h; done)
    | (cases h; rfl)
    | (simp only [decodeFamily0, decodeFamily8, decodeFamilyE, decodeFamilyF] at h; repeat' split at h)
  all_goals first
    | (cases h; done)
    | (cases h; rfl)

/-- What the table's numbering of bits decodes to is what the decoder says of the word. -/
theorem decodeTableWord_eq (nbits w : Nat) : decodeTableWord nbits w = knownInstr (decode (tableWord nbits w)) := by
  simp only [decodeTableWord, decodeBytes, wordOfBytes_highByte_lowByte]

end Sys2Proof
end

