-- ==== Sys2Proof/Laws/State.lean ====
section
/-! SUPPORT. One lemma per field per update, and the reads of registers and memory across updates, so that no
proof unfolds a record update. -/

namespace Sys2Proof.Machine

variable (s : State)

/-! ### `setV` -/

@[simp] theorem State.setV_v (x : Reg) (b : Byte) : (s.setV x b).v = s.v.set x.toNat b x.isLt := rfl
@[simp] theorem State.setV_index (x : Reg) (b : Byte) : (s.setV x b).index = s.index := rfl
@[simp] theorem State.setV_pc (x : Reg) (b : Byte) : (s.setV x b).pc = s.pc := rfl
@[simp] theorem State.setV_stack (x : Reg) (b : Byte) : (s.setV x b).stack = s.stack := rfl
@[simp] theorem State.setV_dt (x : Reg) (b : Byte) : (s.setV x b).dt = s.dt := rfl
@[simp] theorem State.setV_st (x : Reg) (b : Byte) : (s.setV x b).st = s.st := rfl
@[simp] theorem State.setV_dtRef (x : Reg) (b : Byte) : (s.setV x b).dtRef = s.dtRef := rfl
@[simp] theorem State.setV_stRef (x : Reg) (b : Byte) : (s.setV x b).stRef = s.stRef := rfl
@[simp] theorem State.setV_es (x : Reg) (b : Byte) : (s.setV x b).es = s.es := rfl
@[simp] theorem State.setV_fb (x : Reg) (b : Byte) : (s.setV x b).fb = s.fb := rfl
@[simp] theorem State.setV_mem (x : Reg) (b : Byte) : (s.setV x b).mem = s.mem := rfl
@[simp] theorem State.setV_inputs (x : Reg) (b : Byte) : (s.setV x b).inputs = s.inputs := rfl
@[simp] theorem State.setV_result (x : Reg) (b : Byte) : (s.setV x b).result = s.result := rfl
@[simp] theorem State.setV_t60 (x : Reg) (b : Byte) : (s.setV x b).t60 = s.t60 := rfl
@[simp] theorem State.setV_phase (x : Reg) (b : Byte) : (s.setV x b).phase = s.phase := rfl
@[simp] theorem State.setV_host (x : Reg) (b : Byte) : (s.setV x b).host = s.host := rfl
@[simp] theorem State.setV_freeTicks (x : Reg) (b : Byte) : (s.setV x b).freeTicks = s.freeTicks := rfl
@[simp] theorem State.setV_inits (x : Reg) (b : Byte) : (s.setV x b).inits = s.inits := rfl

@[simp] theorem State.setV_readByte (x : Reg) (b : Byte) (k : Nat) : (s.setV x b).readByte k = s.readByte k := rfl
@[simp] theorem State.setV_indexed (x : Reg) (b : Byte) (k : Nat) : (s.setV x b).indexed k = s.indexed k := rfl

/-! ### `setIndex` -/

@[simp] theorem State.setIndex_v (a : Word) : (s.setIndex a).v = s.v := rfl
@[simp] theorem State.setIndex_index (a : Word) : (s.setIndex a).index = a := rfl
@[simp] theorem State.setIndex_pc (a : Word) : (s.setIndex a).pc = s.pc := rfl
@[simp] theorem State.setIndex_stack (a : Word) : (s.setIndex a).stack = s.stack := rfl
@[simp] theorem State.setIndex_dt (a : Word) : (s.setIndex a).dt = s.dt := rfl
@[simp] theorem State.setIndex_st (a : Word) : (s.setIndex a).st = s.st := rfl
@[simp] theorem State.setIndex_dtRef (a : Word) : (s.setIndex a).dtRef = s.dtRef := rfl
@[simp] theorem State.setIndex_stRef (a : Word) : (s.setIndex a).stRef = s.stRef := rfl
@[simp] theorem State.setIndex_es (a : Word) : (s.setIndex a).es = s.es := rfl
@[simp] theorem State.setIndex_fb (a : Word) : (s.setIndex a).fb = s.fb := rfl
@[simp] theorem State.setIndex_mem (a : Word) : (s.setIndex a).mem = s.mem := rfl
@[simp] theorem State.setIndex_inputs (a : Word) : (s.setIndex a).inputs = s.inputs := rfl
@[simp] theorem State.setIndex_result (a : Word) : (s.setIndex a).result = s.result := rfl
@[simp] theorem State.setIndex_t60 (a : Word) : (s.setIndex a).t60 = s.t60 := rfl
@[simp] theorem State.setIndex_phase (a : Word) : (s.setIndex a).phase = s.phase := rfl
@[simp] theorem State.setIndex_host (a : Word) : (s.setIndex a).host = s.host := rfl
@[simp] theorem State.setIndex_freeTicks (a : Word) : (s.setIndex a).freeTicks = s.freeTicks := rfl
@[simp] theorem State.setIndex_inits (a : Word) : (s.setIndex a).inits = s.inits := rfl

@[simp] theorem State.setIndex_getV (a : Word) (y : Reg) : (s.setIndex a).getV y = s.getV y := rfl
@[simp] theorem State.setIndex_readByte (a : Word) (k : Nat) : (s.setIndex a).readByte k = s.readByte k := rfl

/-! ### `setPc` -/

@[simp] theorem State.setPc_v (a : Word) : (s.setPc a).v = s.v := rfl
@[simp] theorem State.setPc_index (a : Word) : (s.setPc a).index = s.index := rfl
@[simp] theorem State.setPc_pc (a : Word) : (s.setPc a).pc = a := rfl
@[simp] theorem State.setPc_stack (a : Word) : (s.setPc a).stack = s.stack := rfl
@[simp] theorem State.setPc_dt (a : Word) : (s.setPc a).dt = s.dt := rfl
@[simp] theorem State.setPc_st (a : Word) : (s.setPc a).st = s.st := rfl
@[simp] theorem State.setPc_dtRef (a : Word) : (s.setPc a).dtRef = s.dtRef := rfl
@[simp] theorem State.setPc_stRef (a : Word) : (s.setPc a).stRef = s.stRef := rfl
@[simp] theorem State.setPc_es (a : Word) : (s.setPc a).es = s.es := rfl
@[simp] theorem State.setPc_fb (a : Word) : (s.setPc a).fb = s.fb := rfl
@[simp] theorem State.setPc_mem (a : Word) : (s.setPc a).mem = s.mem := rfl
@[simp] theorem State.setPc_inputs (a : Word) : (s.setPc a).inputs = s.inputs := rfl
@[simp] theorem State.setPc_result (a : Word) : (s.setPc a).result = s.result := rfl
@[simp] theorem State.setPc_t60 (a : Word) : (s.setPc a).t60 = s.t60 := rfl
@[simp] theorem State.setPc_phase (a : Word) : (s.setPc a).phase = s.phase := rfl
@[simp] theorem State.setPc_host (a : Word) : (s.setPc a).host = s.host := rfl
@[simp] theorem State.setPc_freeTicks (a : Word) : (s.setPc a).freeTicks = s.freeTicks := rfl
@[simp] theorem State.setPc_inits (a : Word) : (s.setPc a).inits = s.inits := rfl

@[simp] theorem State.setPc_getV (a : Word) (y : Reg) : (s.setPc a).getV y = s.getV y := rfl
@[simp] theorem State.setPc_readByte (a : Word) (k : Nat) : (s.setPc a).readByte k = s.readByte k := rfl
@[simp] theorem State.setPc_indexed (a : Word) (k : Nat) : (s.setPc a).indexed k = s.indexed k := rfl

/-! ### `setStack` -/

@[simp] theorem State.setStack_v (l : List Word) : (s.setStack l).v = s.v := rfl
@[simp] theorem State.setStack_index (l : List Word) : (s.setStack l).index = s.index := rfl
@[simp] theorem State.setStack_pc (l : List Word) : (s.setStack l).pc = s.pc := rfl
@[simp] theorem State.setStack_stack (l : List Word) : (s.setStack l).stack = l := rfl
@[simp] theorem State.setStack_dt (l : List Word) : (s.setStack l).dt = s.dt := rfl
@[simp] theorem State.setStack_st (l : List Word) : (s.setStack l).st = s.st := rfl
@[simp] theorem State.setStack_dtRef (l : List Word) : (s.setStack l).dtRef = s.dtRef := rfl
@[simp] theorem State.setStack_stRef (l : List Word) : (s.setStack l).stRef = s.stRef := rfl
@[simp] theorem State.setStack_es (l : List Word) : (s.setStack l).es = s.es := rfl
@[simp] theorem State.setStack_fb (l : List Word) : (s.setStack l).fb = s.fb := rfl
@[simp] theorem State.setStack_mem (l : List Word) : (s.setStack l).mem = s.mem := rfl
@[simp] theorem State.setStack_inputs (l : List Word) : (s.setStack l).inputs = s.inputs := rfl
@[simp] theorem State.setStack_result (l : List Word) : (s.setStack l).result = s.result := rfl
@[simp] theorem State.setStack_t60 (l : List Word) : (s.setStack l).t60 = s.t60 := rfl
@[simp] theorem State.setStack_phase (l : List Word) : (s.setStack l).phase = s.phase := rfl
@[simp] theorem State.setStack_host (l : List Word) : (s.setStack l).host = s.host := rfl
@[simp] theorem State.setStack_freeTicks (l : List Word) : (s.setStack l).freeTicks = s.freeTicks := rfl
@[simp] theorem State.setStack_inits (l : List Word) : (s.setStack l).inits = s.inits := rfl

@[simp] theorem State.setStack_getV (l : List Word) (y : Reg) : (s.setStack l).getV y = s.getV y := rfl
@[simp] theorem State.setStack_readByte (l : List Word) (k : Nat) : (s.setStack l).readByte k = s.readByte k := rfl
@[simp] theorem State.setStack_indexed (l : List Word) (k : Nat) : (s.setStack l).indexed k = s.indexed k := rfl

/-! ### `setDelay` -/

@[simp] theorem State.setDelay_v (b : Byte) (n : Nat) : (s.setDelay b n).v = s.v := rfl
@[simp] theorem State.setDelay_index (b : Byte) (n : Nat) : (s.setDelay b n).index = s.index := rfl
@[simp] theorem State.setDelay_pc (b : Byte) (n : Nat) : (s.setDelay b n).pc = s.pc := rfl
@[simp] theorem State.setDelay_stack (b : Byte) (n : Nat) : (s.setDelay b n).stack = s.stack := rfl
@[simp] theorem State.setDelay_dt (b : Byte) (n : Nat) : (s.setDelay b n).dt = b := rfl
@[simp] theorem State.setDelay_st (b : Byte) (n : Nat) : (s.setDelay b n).st = s.st := rfl
@[simp] theorem State.setDelay_dtRef (b : Byte) (n : Nat) : (s.setDelay b n).dtRef = n := rfl
@[simp] theorem State.setDelay_stRef (b : Byte) (n : Nat) : (s.setDelay b n).stRef = s.stRef := rfl
@[simp] theorem State.setDelay_es (b : Byte) (n : Nat) : (s.setDelay b n).es = s.es := rfl
@[simp] theorem State.setDelay_fb (b : Byte) (n : Nat) : (s.setDelay b n).fb = s.fb := rfl
@[simp] theorem State.setDelay_mem (b : Byte) (n : Nat) : (s.setDelay b n).mem = s.mem := rfl
@[simp] theorem State.setDelay_inputs (b : Byte) (n : Nat) : (s.setDelay b n).inputs = s.inputs := rfl
@[simp] theorem State.setDelay_result (b : Byte) (n : Nat) : (s.setDelay b n).result = s.result := rfl
@[simp] theorem State.setDelay_t60 (b : Byte) (n : Nat) : (s.setDelay b n).t60 = s.t60 := rfl
@[simp] theorem State.setDelay_phase (b : Byte) (n : Nat) : (s.setDelay b n).phase = s.phase := rfl
@[simp] theorem State.setDelay_host (b : Byte) (n : Nat) : (s.setDelay b n).host = s.host := rfl
@[simp] theorem State.setDelay_freeTicks (b : Byte) (n : Nat) : (s.setDelay b n).freeTicks = s.freeTicks := rfl
@[simp] theorem State.setDelay_inits (b : Byte) (n : Nat) : (s.setDelay b n).inits = s.inits := rfl

@[simp] theorem State.setDelay_getV (b : Byte) (n : Nat) (y : Reg) : (s.setDelay b n).getV y = s.getV y := rfl
@[simp] theorem State.setDelay_readByte (b : Byte) (n : Nat) (k : Nat) : (s.setDelay b n).readByte k = s.readByte k := rfl
@[simp] theorem State.setDelay_indexed (b : Byte) (n : Nat) (k : Nat) : (s.setDelay b n).indexed k = s.indexed k := rfl

/-! ### `setSound` -/

@[simp] theorem State.setSound_v (b : Byte) (n : Nat) : (s.setSound b n).v = s.v := rfl
@[simp] theorem State.setSound_index (b : Byte) (n : Nat) : (s.setSound b n).index = s.index := rfl
@[simp] theorem State.setSound_pc (b : Byte) (n : Nat) : (s.setSound b n).pc = s.pc := rfl
@[simp] theorem State.setSound_stack (b : Byte) (n : Nat) : (s.setSound b n).stack = s.stack := rfl
@[simp] theorem State.setSound_dt (b : Byte) (n : Nat) : (s.setSound b n).dt = s.dt := rfl
@[simp] theorem State.setSound_st (b : Byte) (n : Nat) : (s.setSound b n).st = b := rfl
@[simp] theorem State.setSound_dtRef (b : Byte) (n : Nat) : (s.setSound b n).dtRef = s.dtRef := rfl
@[simp] theorem State.setSound_stRef (b : Byte) (n : Nat) : (s.setSound b n).stRef = n := rfl
@[simp] theorem State.setSound_es (b : Byte) (n : Nat) : (s.setSound b n).es = s.es := rfl
@[simp] theorem State.setSound_fb (b : Byte) (n : Nat) : (s.setSound b n).fb = s.fb := rfl
@[simp] theorem State.setSound_mem (b : Byte) (n : Nat) : (s.setSound b n).mem = s.mem := rfl
@[simp] theorem State.setSound_inputs (b : Byte) (n : Nat) : (s.setSound b n).inputs = s.inputs := rfl
@[simp] theorem State.setSound_result (b : Byte) (n : Nat) : (s.setSound b n).result = s.result := rfl
@[simp] theorem State.setSound_t60 (b : Byte) (n : Nat) : (s.setSound b n).t60 = s.t60 := rfl
@[simp] theorem State.setSound_phase (b : Byte) (n : Nat) : (s.setSound b n).phase = s.phase := rfl
@[simp] theorem State.setSound_host (b : Byte) (n : Nat) : (s.setSound b n).host = s.host := rfl
@[simp] theorem State.setSound_freeTicks (b : Byte) (n : Nat) : (s.setSound b n).freeTicks = s.freeTicks := rfl
@[simp] theorem State.setSound_inits (b : Byte) (n : Nat) : (s.setSound b n).inits = s.inits := rfl

@[simp] theorem State.setSound_getV (b : Byte) (n : Nat) (y : Reg) : (s.setSound b n).getV y = s.getV y := rfl
@[simp] theorem State.setSound_readByte (b : Byte) (n : Nat) (k : Nat) : (s.setSound b n).readByte k = s.readByte k := rfl
@[simp] theorem State.setSound_indexed (b : Byte) (n : Nat) (k : Nat) : (s.setSound b n).indexed k = s.indexed k := rfl

/-! ### `setEs` -/

@[simp] theorem State.setEs_v (e : ExecState) : (s.setEs e).v = s.v := rfl
@[simp] theorem State.setEs_index (e : ExecState) : (s.setEs e).index = s.index := rfl
@[simp] theorem State.setEs_pc (e : ExecState) : (s.setEs e).pc = s.pc := rfl
@[simp] theorem State.setEs_stack (e : ExecState) : (s.setEs e).stack = s.stack := rfl
@[simp] theorem State.setEs_dt (e : ExecState) : (s.setEs e).dt = s.dt := rfl
@[simp] theorem State.setEs_st (e : ExecState) : (s.setEs e).st = s.st := rfl
@[simp] theorem State.setEs_dtRef (e : ExecState) : (s.setEs e).dtRef = s.dtRef := rfl
@[simp] theorem State.setEs_stRef (e : ExecState) : (s.setEs e).stRef = s.stRef := rfl
@[simp] theorem State.setEs_es (e : ExecState) : (s.setEs e).es = e := rfl
@[simp] theorem State.setEs_fb (e : ExecState) : (s.setEs e).fb = s.fb := rfl
@[simp] theorem State.setEs_mem (e : ExecState) : (s.setEs e).mem = s.mem := rfl
@[simp] theorem State.setEs_inputs (e : ExecState) : (s.setEs e).inputs = s.inputs := rfl
@[simp] theorem State.setEs_result (e : ExecState) : (s.setEs e).result = s.result := rfl
@[simp] theorem State.setEs_t60 (e : ExecState) : (s.setEs e).t60 = s.t60 := rfl
@[simp] theorem State.setEs_phase (e : ExecState) : (s.setEs e).phase = s.phase := rfl
@[simp] theorem State.setEs_host (e : ExecState) : (s.setEs e).host = s.host := rfl
@[simp] theorem State.setEs_freeTicks (e : ExecState) : (s.setEs e).freeTicks = s.freeTicks := rfl
@[simp] theorem State.setEs_inits (e : ExecState) : (s.setEs e).inits = s.inits := rfl

@[simp] theorem State.setEs_getV (e : ExecState) (y : Reg) : (s.setEs e).getV y = s.getV y := rfl
@[simp] theorem State.setEs_readByte (e : ExecState) (k : Nat) : (s.setEs e).readByte k = s.readByte k := rfl
@[simp] theorem State.setEs_indexed (e : ExecState) (k : Nat) : (s.setEs e).indexed k = s.indexed k := rfl

/-! ### `setFb` -/

@[simp] theorem State.setFb_v (f : Framebuffer) : (s.setFb f).v = s.v := rfl
@[simp] theorem State.setFb_index (f : Framebuffer) : (s.setFb f).index = s.index := rfl
@[simp] theorem State.setFb_pc (f : Framebuffer) : (s.setFb f).pc = s.pc := rfl
@[simp] theorem State.setFb_stack (f : Framebuffer) : (s.setFb f).stack = s.stack := rfl
@[simp] theorem State.setFb_dt (f : Framebuffer) : (s.setFb f).dt = s.dt := rfl
@[simp] theorem State.setFb_st (f : Framebuffer) : (s.setFb f).st = s.st := rfl
@[simp] theorem State.setFb_dtRef (f : Framebuffer) : (s.setFb f).dtRef = s.dtRef := rfl
@[simp] theorem State.setFb_stRef (f : Framebuffer) : (s.setFb f).stRef = s.stRef := rfl
@[simp] theorem State.setFb_es (f : Framebuffer) : (s.setFb f).es = s.es := rfl
@[simp] theorem State.setFb_fb (f : Framebuffer) : (s.setFb f).fb = f := rfl
@[simp] theorem State.setFb_mem (f : Framebuffer) : (s.setFb f).mem = s.mem := rfl
@[simp] theorem State.setFb_inputs (f : Framebuffer) : (s.setFb f).inputs = s.inputs := rfl
@[simp] theorem State.setFb_result (f : Framebuffer) : (s.setFb f).result = s.result := rfl
@[simp] theorem State.setFb_t60 (f : Framebuffer) : (s.setFb f).t60 = s.t60 := rfl
@[simp] theorem State.setFb_phase (f : Framebuffer) : (s.setFb f).phase = s.phase := rfl
@[simp] theorem State.setFb_host (f : Framebuffer) : (s.setFb f).host = s.host := rfl
@[simp] theorem State.setFb_freeTicks (f : Framebuffer) : (s.setFb f).freeTicks = s.freeTicks := rfl
@[simp] theorem State.setFb_inits (f : Framebuffer) : (s.setFb f).inits = s.inits := rfl

@[simp] theorem State.setFb_getV (f : Framebuffer) (y : Reg) : (s.setFb f).getV y = s.getV y := rfl
@[simp] theorem State.setFb_readByte (f : Framebuffer) (k : Nat) : (s.setFb f).readByte k = s.readByte k := rfl
@[simp] theorem State.setFb_indexed (f : Framebuffer) (k : Nat) : (s.setFb f).indexed k = s.indexed k := rfl

/-! ### `setMem` -/

@[simp] theorem State.setMem_v (m : Memory) : (s.setMem m).v = s.v := rfl
@[simp] theorem State.setMem_index (m : Memory) : (s.setMem m).index = s.index := rfl
@[simp] theorem State.setMem_pc (m : Memory) : (s.setMem m).pc = s.pc := rfl
@[simp] theorem State.setMem_stack (m : Memory) : (s.setMem m).stack = s.stack := rfl
@[simp] theorem State.setMem_dt (m : Memory) : (s.setMem m).dt = s.dt := rfl
@[simp] theorem State.setMem_st (m : Memory) : (s.setMem m).st = s.st := rfl
@[simp] theorem State.setMem_dtRef (m : Memory) : (s.setMem m).dtRef = s.dtRef := rfl
@[simp] theorem State.setMem_stRef (m : Memory) : (s.setMem m).stRef = s.stRef := rfl
@[simp] theorem State.setMem_es (m : Memory) : (s.setMem m).es = s.es := rfl
@[simp] theorem State.setMem_fb (m : Memory) : (s.setMem m).fb = s.fb := rfl
@[simp] theorem State.setMem_mem (m : Memory) : (s.setMem m).mem = m := rfl
@[simp] theorem State.setMem_inputs (m : Memory) : (s.setMem m).inputs = s.inputs := rfl
@[simp] theorem State.setMem_result (m : Memory) : (s.setMem m).result = s.result := rfl
@[simp] theorem State.setMem_t60 (m : Memory) : (s.setMem m).t60 = s.t60 := rfl
@[simp] theorem State.setMem_phase (m : Memory) : (s.setMem m).phase = s.phase := rfl
@[simp] theorem State.setMem_host (m : Memory) : (s.setMem m).host = s.host := rfl
@[simp] theorem State.setMem_freeTicks (m : Memory) : (s.setMem m).freeTicks = s.freeTicks := rfl
@[simp] theorem State.setMem_inits (m : Memory) : (s.setMem m).inits = s.inits := rfl

@[simp] theorem State.setMem_getV (m : Memory) (y : Reg) : (s.setMem m).getV y = s.getV y := rfl
@[simp] theorem State.setMem_indexed (m : Memory) (k : Nat) : (s.setMem m).indexed k = s.indexed k := rfl

/-! ### `setResult` -/

@[simp] theorem State.setResult_v (r : TickResult) : (s.setResult r).v = s.v := rfl
@[simp] theorem State.setResult_index (r : TickResult) : (s.setResult r).index = s.index := rfl
@[simp] theorem State.setResult_pc (r : TickResult) : (s.setResult r).pc = s.pc := rfl
@[simp] theorem State.setResult_stack (r : TickResult) : (s.setResult r).stack = s.stack := rfl
@[simp] theorem State.setResult_dt (r : TickResult) : (s.setResult r).dt = s.dt := rfl
@[simp] theorem State.setResult_st (r : TickResult) : (s.setResult r).st = s.st := rfl
@[simp] theorem State.setResult_dtRef (r : TickResult) : (s.setResult r).dtRef = s.dtRef := rfl
@[simp] theorem State.setResult_stRef (r : TickResult) : (s.setResult r).stRef = s.stRef := rfl
@[simp] theorem State.setResult_es (r : TickResult) : (s.setResult r).es = s.es := rfl
@[simp] theorem State.setResult_fb (r : TickResult) : (s.setResult r).fb = s.fb := rfl
@[simp] theorem State.setResult_mem (r : TickResult) : (s.setResult r).mem = s.mem := rfl
@[simp] theorem State.setResult_inputs (r : TickResult) : (s.setResult r).inputs = s.inputs := rfl
@[simp] theorem State.setResult_result (r : TickResult) : (s.setResult r).result = r := rfl
@[simp] theorem State.setResult_t60 (r : TickResult) : (s.setResult r).t60 = s.t60 := rfl
@[simp] theorem State.setResult_phase (r : TickResult) : (s.setResult r).phase = s.phase := rfl
@[simp] theorem State.setResult_host (r : TickResult) : (s.setResult r).host = s.host := rfl
@[simp] theorem State.setResult_freeTicks (r : TickResult) : (s.setResult r).freeTicks = s.freeTicks := rfl
@[simp] theorem State.setResult_inits (r : TickResult) : (s.setResult r).inits = s.inits := rfl

@[simp] theorem State.setResult_getV (r : TickResult) (y : Reg) : (s.setResult r).getV y = s.getV y := rfl
@[simp] theorem State.setResult_readByte (r : TickResult) (k : Nat) : (s.setResult r).readByte k = s.readByte k := rfl
@[simp] theorem State.setResult_indexed (r : TickResult) (k : Nat) : (s.setResult r).indexed k = s.indexed k := rfl

/-! ### `writeByte` -/

@[simp] theorem State.writeByte_v (a : Nat) (b : Byte) : (s.writeByte a b).v = s.v := rfl
@[simp] theorem State.writeByte_index (a : Nat) (b : Byte) : (s.writeByte a b).index = s.index := rfl
@[simp] theorem State.writeByte_pc (a : Nat) (b : Byte) : (s.writeByte a b).pc = s.pc := rfl
@[simp] theorem State.writeByte_stack (a : Nat) (b : Byte) : (s.writeByte a b).stack = s.stack := rfl
@[simp] theorem State.writeByte_dt (a : Nat) (b : Byte) : (s.writeByte a b).dt = s.dt := rfl
@[simp] theorem State.writeByte_st (a : Nat) (b : Byte) : (s.writeByte a b).st = s.st := rfl
@[simp] theorem State.writeByte_dtRef (a : Nat) (b : Byte) : (s.writeByte a b).dtRef = s.dtRef := rfl
@[simp] theorem State.writeByte_stRef (a : Nat) (b : Byte) : (s.writeByte a b).stRef = s.stRef := rfl
@[simp] theorem State.writeByte_es (a : Nat) (b : Byte) : (s.writeByte a b).es = s.es := rfl
@[simp] theorem State.writeByte_fb (a : Nat) (b : Byte) : (s.writeByte a b).fb = s.fb := rfl
@[simp] theorem State.writeByte_mem (a : Nat) (b : Byte) : (s.writeByte a b).mem = Memory.insert s.mem (a12 a) b := rfl
@[simp] theorem State.writeByte_inputs (a : Nat) (b : Byte) : (s.writeByte a b).inputs = s.inputs := rfl
@[simp] theorem State.writeByte_result (a : Nat) (b : Byte) : (s.writeByte a b).result = s.result := rfl
@[simp] theorem State.writeByte_t60 (a : Nat) (b : Byte) : (s.writeByte a b).t60 = s.t60 := rfl
@[simp] theorem State.writeByte_phase (a : Nat) (b : Byte) : (s.writeByte a b).phase = s.phase := rfl
@[simp] theorem State.writeByte_host (a : Nat) (b : Byte) : (s.writeByte a b).host = s.host := rfl
@[simp] theorem State.writeByte_freeTicks (a : Nat) (b : Byte) : (s.writeByte a b).freeTicks = s.freeTicks := rfl
@[simp] theorem State.writeByte_inits (a : Nat) (b : Byte) : (s.writeByte a b).inits = s.inits := rfl

@[simp] theorem State.writeByte_getV (a : Nat) (b : Byte) (y : Reg) : (s.writeByte a b).getV y = s.getV y := rfl
@[simp] theorem State.writeByte_indexed (a : Nat) (b : Byte) (k : Nat) : (s.writeByte a b).indexed k = s.indexed k := rfl

/-! ### `advance` -/

@[simp] theorem State.advance_v : s.advance.v = s.v := rfl
@[simp] theorem State.advance_index : s.advance.index = s.index := rfl
@[simp] theorem State.advance_pc : s.advance.pc = s.pc + 2 := rfl
@[simp] theorem State.advance_stack : s.advance.stack = s.stack := rfl
@[simp] theorem State.advance_dt : s.advance.dt = s.dt := rfl
@[simp] theorem State.advance_st : s.advance.st = s.st := rfl
@[simp] theorem State.advance_dtRef : s.advance.dtRef = s.dtRef := rfl
@[simp] theorem State.advance_stRef : s.advance.stRef = s.stRef := rfl
@[simp] theorem State.advance_es : s.advance.es = s.es := rfl
@[simp] theorem State.advance_fb : s.advance.fb = s.fb := rfl
@[simp] theorem State.advance_mem : s.advance.mem = s.mem := rfl
@[simp] theorem State.advance_inputs : s.advance.inputs = s.inputs := rfl
@[simp] theorem State.advance_result : s.advance.result = s.result := rfl
@[simp] theorem State.advance_t60 : s.advance.t60 = s.t60 := rfl
@[simp] theorem State.advance_phase : s.advance.phase = s.phase := rfl
@[simp] theorem State.advance_host : s.advance.host = s.host := rfl
@[simp] theorem State.advance_freeTicks : s.advance.freeTicks = s.freeTicks := rfl
@[simp] theorem State.advance_inits : s.advance.inits = s.inits := rfl

@[simp] theorem State.advance_getV (y : Reg) : s.advance.getV y = s.getV y := rfl
@[simp] theorem State.advance_readByte (k : Nat) : s.advance.readByte k = s.readByte k := rfl
@[simp] theorem State.advance_indexed (k : Nat) : s.advance.indexed k = s.indexed k := rfl

/-! ### `skipIf` -/

@[simp] theorem State.skipIf_v (c : Bool) : (s.skipIf c).v = s.v := rfl
@[simp] theorem State.skipIf_index (c : Bool) : (s.skipIf c).index = s.index := rfl
@[simp] theorem State.skipIf_pc (c : Bool) : (s.skipIf c).pc = if c then s.pc + 4 else s.pc + 2 := rfl
@[simp] theorem State.skipIf_stack (c : Bool) : (s.skipIf c).stack = s.stack := rfl
@[simp] theorem State.skipIf_dt (c : Bool) : (s.skipIf c).dt = s.dt := rfl
@[simp] theorem State.skipIf_st (c : Bool) : (s.skipIf c).st = s.st := rfl
@[simp] theorem State.skipIf_dtRef (c : Bool) : (s.skipIf c).dtRef = s.dtRef := rfl
@[simp] theorem State.skipIf_stRef (c : Bool) : (s.skipIf c).stRef = s.stRef := rfl
@[simp] theorem State.skipIf_es (c : Bool) : (s.skipIf c).es = s.es := rfl
@[simp] theorem State.skipIf_fb (c : Bool) : (s.skipIf c).fb = s.fb := rfl
@[simp] theorem State.skipIf_mem (c : Bool) : (s.skipIf c).mem = s.mem := rfl
@[simp] theorem State.skipIf_inputs (c : Bool) : (s.skipIf c).inputs = s.inputs := rfl
@[simp] theorem State.skipIf_result (c : Bool) : (s.skipIf c).result = s.result := rfl
@[simp] theorem State.skipIf_t60 (c : Bool) : (s.skipIf c).t60 = s.t60 := rfl
@[simp] theorem State.skipIf_phase (c : Bool) : (s.skipIf c).phase = s.phase := rfl
@[simp] theorem State.skipIf_host (c : Bool) : (s.skipIf c).host = s.host := rfl
@[simp] theorem State.skipIf_freeTicks (c : Bool) : (s.skipIf c).freeTicks = s.freeTicks := rfl
@[simp] theorem State.skipIf_inits (c : Bool) : (s.skipIf c).inits = s.inits := rfl

@[simp] theorem State.skipIf_getV (c : Bool) (y : Reg) : (s.skipIf c).getV y = s.getV y := rfl
@[simp] theorem State.skipIf_readByte (c : Bool) (k : Nat) : (s.skipIf c).readByte k = s.readByte k := rfl
@[simp] theorem State.skipIf_indexed (c : Bool) (k : Nat) : (s.skipIf c).indexed k = s.indexed k := rfl

/-! ### `sample` -/

@[simp] theorem State.sample_v (i : TickInputs) : (s.sample i).v = s.v := rfl
@[simp] theorem State.sample_index (i : TickInputs) : (s.sample i).index = s.index := rfl
@[simp] theorem State.sample_pc (i : TickInputs) : (s.sample i).pc = s.pc := rfl
@[simp] theorem State.sample_stack (i : TickInputs) : (s.sample i).stack = s.stack := rfl
@[simp] theorem State.sample_dt (i : TickInputs) : (s.sample i).dt = s.dt := rfl
@[simp] theorem State.sample_st (i : TickInputs) : (s.sample i).st = s.st := rfl
@[simp] theorem State.sample_dtRef (i : TickInputs) : (s.sample i).dtRef = s.dtRef := rfl
@[simp] theorem State.sample_stRef (i : TickInputs) : (s.sample i).stRef = s.stRef := rfl
@[simp] theorem State.sample_es (i : TickInputs) : (s.sample i).es = s.es := rfl
@[simp] theorem State.sample_fb (i : TickInputs) : (s.sample i).fb = s.fb := rfl
@[simp] theorem State.sample_mem (i : TickInputs) : (s.sample i).mem = s.mem := rfl
@[simp] theorem State.sample_inputs (i : TickInputs) : (s.sample i).inputs = i := rfl
@[simp] theorem State.sample_result (i : TickInputs) : (s.sample i).result = .ok := rfl
@[simp] theorem State.sample_t60 (i : TickInputs) : (s.sample i).t60 = s.t60 := rfl
@[simp] theorem State.sample_phase (i : TickInputs) : (s.sample i).phase = s.phase := rfl
@[simp] theorem State.sample_host (i : TickInputs) : (s.sample i).host = s.host := rfl
@[simp] theorem State.sample_freeTicks (i : TickInputs) : (s.sample i).freeTicks = s.freeTicks := rfl
@[simp] theorem State.sample_inits (i : TickInputs) : (s.sample i).inits = s.inits := rfl

@[simp] theorem State.sample_getV (i : TickInputs) (y : Reg) : (s.sample i).getV y = s.getV y := rfl
@[simp] theorem State.sample_readByte (i : TickInputs) (k : Nat) : (s.sample i).readByte k = s.readByte k := rfl
@[simp] theorem State.sample_indexed (i : TickInputs) (k : Nat) : (s.sample i).indexed k = s.indexed k := rfl

end Sys2Proof.Machine
end

