-- ==== Sys2Proof/Laws/Ops.lean ====
section
/-! SUPPORT. What each shared operation over registers, stack and memory does, said once. -/

namespace Sys2Proof.Machine

/-! ### General registers -/

theorem State.getV_setV (s : State) (x y : Reg) (b : Byte) :
    (s.setV x b).getV y = if y = x then b else s.getV y := by
  unfold State.getV State.setV
  by_cases h : y = x
  · subst h; simp
  · have : x.toNat ≠ y.toNat := fun e => h (BitVec.eq_of_toNat_eq e.symm)
    simp [h, this]

@[simp] theorem State.getV_setV_same (s : State) (x : Reg) (b : Byte) : (s.setV x b).getV x = b := by
  simp [State.getV_setV]

theorem State.getV_setV_other (s : State) {x y : Reg} (b : Byte) (h : y ≠ x) : (s.setV x b).getV y = s.getV y := by
  simp [State.getV_setV, h]

/-- A flag-setting write leaves the flag in VF, whatever the destination is (R121). -/
theorem State.getV_setVFlag (s : State) (x y : Reg) (b f : Byte) :
    (s.setVFlag x b f).getV y = if y = vf then f else if y = x then b else s.getV y := by
  simp [State.setVFlag, State.getV_setV]

/-- A flag-setting write is a write of general registers: every other component is as it was. -/
theorem State.setVFlag_onlyChanges (s : State) (x : Reg) (b f : Byte) : OnlyChanges s (s.setVFlag x b f) [.v] := by
  intro c hc
  cases c <;> simp_all [SameOn, State.setVFlag]

/-! ### Call stack -/

/-- What a push answers: the error with nothing written, or the continuation on the state with the entry on top. -/
theorem State.push_eq (s : State) (a : Word) (k : State → Out) :
    s.push a k = if s.stack.length = Config.stackDepth then .next (s.setResult .stackOverflow)
      else k (s.setStack (s.stack ++ [a])) := rfl

theorem State.pop_empty (s : State) (k : Word → State → Out) (h : s.stack = []) :
    s.pop k = .next (s.setResult .stackUnderflow) := by
  simp [State.pop, h, State.raise]

theorem State.pop_top (s : State) (k : Word → State → Out) (l : List Word) (a : Word) (h : s.stack = l ++ [a]) :
    s.pop k = k a (s.setStack l) := by
  simp [State.pop, h]

/-- What a push can answer: the error, exactly when the stack is full, or the continuation (R27). -/
theorem State.push_cases (s : State) (a : Word) (k : State → Out) :
    (s.stack.length = Config.stackDepth ∧ s.push a k = .next (s.setResult .stackOverflow)) ∨
      (s.stack.length ≠ Config.stackDepth ∧ s.push a k = k (s.setStack (s.stack ++ [a]))) := by
  by_cases h : s.stack.length = Config.stackDepth <;> simp [State.push_eq, h]

/-- What a pop can answer: the error, exactly when the stack is empty, or the continuation on the top entry (R27). -/
theorem State.pop_cases (s : State) (k : Word → State → Out) :
    (s.stack = [] ∧ s.pop k = .next (s.setResult .stackUnderflow)) ∨
      ∃ l a, s.stack = l ++ [a] ∧ s.pop k = k a (s.setStack l) := by
  rcases List.eq_nil_or_concat s.stack with h | ⟨l, a, h⟩
  · exact .inl ⟨h, s.pop_empty k h⟩
  · rw [List.concat_eq_append] at h
    exact .inr ⟨l, a, h, s.pop_top k l a h⟩

/-! ### The program counter -/

/-- The ordinary advance is by 2, modulo 65536 (R25). -/
theorem State.advance_pcMoved (s t : State) (h : t.pc = s.pc) : PcMoved s t.advance 2 := by
  simp [PcMoved, BitVec.toNat_add, h]

/-- A skip moves PC by 4 or by 2 and changes nothing else (R25). -/
theorem State.skipIf_spec (s : State) (c : Bool) :
    PcMoved s (s.skipIf c) (if c then 4 else 2) ∧ OnlyChanges s (s.skipIf c) [.pc] := by
  refine ⟨by cases c <;> simp [PcMoved, BitVec.toNat_add], fun k hk => ?_⟩
  cases k <;> simp_all [SameOn]

/-! ### Memory as a list -/

theorem Memory.lookup_insert (m : Memory) (a b : Nat) (w : Byte) :
    Memory.lookup (Memory.insert m a w) b = if a = b then some w else Memory.lookup m b := by
  induction m with
  | nil => simp [Memory.insert, Memory.lookup]
  | cons p m ih =>
    obtain ⟨c, u⟩ := p
    unfold Memory.insert
    split
    · simp [Memory.lookup]
    · split
      · subst_vars; simp only [Memory.lookup]; split <;> simp_all
      · simp only [Memory.lookup, ih]; split <;> simp_all

theorem Memory.mem_insert (m : Memory) (a : Nat) (w : Byte) (p : Host.Cell) (h : p ∈ Memory.insert m a w) :
    p = (a, w) ∨ p ∈ m := by
  induction m with
  | nil => simpa [Memory.insert] using h
  | cons q m ih =>
    obtain ⟨c, u⟩ := q
    unfold Memory.insert at h
    split at h
    · simpa using h
    · split at h
      · simp only [List.mem_cons] at h ⊢; tauto
      · simp only [List.mem_cons] at h ⊢; tauto

/-- Every write keeps the canonical form. -/
theorem Memory.insert_wf (m : Memory) (a : Nat) (w : Byte) (h : Memory.wf m) (ha : a < Config.memSize) :
    Memory.wf (Memory.insert m a w) := by
  refine ⟨?_, fun p hp => ?_⟩
  · obtain ⟨hm, -⟩ := h
    induction m with
    | nil => simp [Memory.insert]
    | cons q m ih =>
      obtain ⟨c, u⟩ := q
      rw [List.pairwise_cons] at hm
      unfold Memory.insert
      split
      · rename_i hac
        refine List.pairwise_cons.2 ⟨fun p hp => ?_, List.pairwise_cons.2 hm⟩
        rcases List.mem_cons.1 hp with rfl | hp
        · exact hac
        · exact Nat.lt_trans hac (hm.1 p hp)
      · split
        · subst_vars; exact List.pairwise_cons.2 hm
        · refine List.pairwise_cons.2 ⟨fun p hp => ?_, ih hm.2⟩
          rcases Memory.mem_insert m a w p hp with rfl | hp
          · show c < a; omega
          · exact hm.1 p hp
  · rcases Memory.mem_insert m a w p hp with rfl | hp
    · exact ha
    · exact h.2 p hp

/-- Loading a ROM keeps the canonical form. -/
theorem Memory.loadFrom_wf (rom : List Byte) : ∀ (m : Memory) (i : Nat), Memory.wf m → Memory.wf (Memory.loadFrom m i rom) := by
  induction rom with
  | nil => intro m i h; exact h
  | cons b rom ih =>
    intro m i h
    unfold Memory.loadFrom
    split
    · exact ih _ _ (Memory.insert_wf _ _ _ h (Nat.mod_lt _ (by decide)))
    · exact h

/-! ### Memory of the machine -/

theorem a12_lt (a : Nat) : a12 a < Config.memSize := Nat.mod_lt _ (by decide)

theorem State.readByte_writeByte (s : State) (a b : Nat) (w : Byte) :
    (s.writeByte a w).readByte b = if a12 a = a12 b then w else s.readByte b := by
  simp only [State.readByte, State.writeByte, State.setMem_mem, State.setMem_inits, Memory.lookup_insert]
  split <;> simp

theorem State.writeByte_wf (s : State) (a : Nat) (w : Byte) (h : Memory.wf s.mem) : Memory.wf (s.writeByte a w).mem :=
  Memory.insert_wf _ _ _ h (a12_lt a)

/-- A write of one byte changes that byte and nothing else. -/
theorem State.writeByte_onlyBytes (s : State) (a : Nat) (w : Byte) : OnlyBytes s (s.writeByte a w) a 1 := by
  intro b hb
  simp [State.readByte_writeByte, show a12 a ≠ a12 b from by simpa using hb 0 (by decide)]

/-! ### Bulk transfers -/

theorem regNum_toNat (i : Nat) (h : i < 16) : (regNum i).toNat = i := by
  simp [regNum, Nat.mod_eq_of_lt h]

/-- The bulk store writes `V[i]` at `I + i` for each `i` below the count, and no other byte (R144). -/
theorem State.storeUpTo_spec (s : State) (n : Nat) (hn : n ≤ 16) :
    (∀ i, i < n → (s.storeUpTo n).readByte (s.indexed i) = s.getV (regNum i)) ∧
      OnlyBytes s (s.storeUpTo n) s.index.toNat n ∧ OnlyChanges s (s.storeUpTo n) [.mem] ∧
      (Memory.wf s.mem → Memory.wf (s.storeUpTo n).mem) := by
  induction n with
  | zero =>
    refine ⟨fun i hi => absurd hi (by omega), fun b _ => rfl, fun c _ => ?_, id⟩
    cases c <;> simp [SameOn, State.storeUpTo]
  | succ n ih =>
    obtain ⟨h1, h2, h3, h4⟩ := ih (by omega)
    refine ⟨fun i hi => ?_, fun b hb => ?_, fun c hc => ?_, fun hw => ?_⟩
    · simp only [State.storeUpTo, State.readByte_writeByte]
      by_cases h : i = n
      · simp [h]
      · have : ¬ a12 (s.indexed n) = a12 (s.indexed i) := by
          simp only [a12, State.indexed, Config.memSize]; omega
        rw [if_neg this]
        exact h1 i (by omega)
    · simp only [State.storeUpTo, State.readByte_writeByte]
      rw [if_neg (show ¬ a12 (s.indexed n) = a12 b from hb n (by omega))]
      exact h2 b (fun i hi => hb i (by omega))
    · have := h3 c hc
      cases c <;> simp_all [SameOn, State.storeUpTo]
    · exact State.writeByte_wf _ _ _ (h4 hw)

/-- The bulk load puts the byte at `I + i` into `V[i]` for each `i` below the count, and writes no other register (R145). -/
theorem State.loadUpTo_spec (s : State) (n : Nat) (hn : n ≤ 16) :
    (∀ r : Reg, (s.loadUpTo n).getV r = if r.toNat < n then s.readByte (s.indexed r.toNat) else s.getV r) ∧
      OnlyChanges s (s.loadUpTo n) [.v] := by
  induction n with
  | zero =>
    refine ⟨fun r => by simp [State.loadUpTo], fun c _ => ?_⟩
    cases c <;> simp [SameOn, State.loadUpTo]
  | succ n ih =>
    obtain ⟨h1, h2⟩ := ih (by omega)
    refine ⟨fun r => ?_, fun c hc => ?_⟩
    · simp only [State.loadUpTo, State.getV_setV, h1]
      by_cases h : r = regNum n
      · have : r.toNat = n := by rw [h, regNum_toNat n (by omega)]
        simp [h, regNum_toNat n (show n < 16 by omega)]
      · have : r.toNat ≠ n := fun e => h (BitVec.eq_of_toNat_eq (by rw [regNum_toNat n (by omega), e]))
        simp only [if_neg h]
        by_cases h' : r.toNat < n
        · simp [h', Nat.lt_succ_of_lt h']
        · simp [h', show ¬ r.toNat < n + 1 by omega]
    · have := h2 c hc
      cases c <;> simp_all [SameOn, State.loadUpTo]

/-- A bulk store is a write of memory alone, as an equation of states. -/
theorem State.storeUpTo_eq (s : State) (n : Nat) : s.storeUpTo n = s.setMem (s.storeUpTo n).mem := by
  induction n with
  | zero => rfl
  | succ n ih => simp only [State.storeUpTo]; rw [ih]; rfl

/-- A bulk load is a write of the registers alone, as an equation of states. -/
theorem State.loadUpTo_eq (s : State) (n : Nat) : s.loadUpTo n = { s with v := (s.loadUpTo n).v } := by
  induction n with
  | zero => rfl
  | succ n ih => simp only [State.loadUpTo]; rw [ih]; rfl

/-- A bulk store depends on the registers, I and memory alone. -/
theorem State.storeUpTo_mem_congr (s t : State) (hv : t.v = s.v) (hi : t.index = s.index) (hm : t.mem = s.mem) (n : Nat) :
    (t.storeUpTo n).mem = (s.storeUpTo n).mem := by
  induction n with
  | zero => exact hm
  | succ n ih => simp only [State.storeUpTo, State.writeByte_mem, ih, State.indexed, State.getV, hv, hi]

/-- A bulk load depends on the registers, I and memory alone. -/
theorem State.loadUpTo_v_congr (s t : State) (hv : t.v = s.v) (hi : t.index = s.index) (hm : t.mem = s.mem)
    (hn : t.inits = s.inits) (n : Nat) : (t.loadUpTo n).v = (s.loadUpTo n).v := by
  induction n with
  | zero => exact hv
  | succ n ih => simp only [State.loadUpTo, State.setV_v, ih, State.indexed, State.readByte, hm, hi, hn]

/-! ### LoadROM -/

/-- LoadROM puts byte `i` of the ROM at 0x200 + i for each `i` below the ceiling, and changes no other byte (R192). -/
theorem State.loadRom_spec (s : State) (rom : List Byte) :
    (∀ i (h : i < rom.length), i < Config.romMax → (s.loadRom rom).readByte (Config.romBase + i) = rom[i]) ∧
      OnlyBytes s (s.loadRom rom) Config.romBase (min rom.length Config.romMax) ∧
      OnlyChanges s (s.loadRom rom) [.mem] := by
  have key : ∀ (rom : List Byte) (m : Memory) (j b : Nat),
      Memory.lookup (Memory.loadFrom m j rom) b =
        if h : Config.romBase + j ≤ b ∧ b - (Config.romBase + j) < rom.length ∧ b < Config.memSize
        then some (rom[b - (Config.romBase + j)]'h.2.1) else Memory.lookup m b := by
    intro rom
    induction rom with
    | nil => intro m j b; simp [Memory.loadFrom]
    | cons w rom ih =>
      intro m j b
      unfold Memory.loadFrom
      by_cases hj : j < Config.romMax
      · rw [if_pos hj, ih, Memory.lookup_insert]
        have ha : a12 (Config.romBase + j) = Config.romBase + j := by
          simp only [a12, Config.memSize, Config.romBase, Config.romMax] at *; omega
        rw [ha]
        by_cases hb : Config.romBase + j = b
        · subst hb
          rw [dif_neg (by omega), if_pos rfl, dif_pos]
          · simp
          · simp only [Config.memSize, Config.romBase, Config.romMax, List.length_cons] at *; omega
        · rw [if_neg hb]
          by_cases hc : Config.romBase + (j + 1) ≤ b ∧ b - (Config.romBase + (j + 1)) < rom.length ∧ b < Config.memSize
          · rw [dif_pos hc, dif_pos (by simp only [List.length_cons]; omega)]
            have : b - (Config.romBase + j) = (b - (Config.romBase + (j + 1))) + 1 := by omega
            simp [this]
          · rw [dif_neg hc, dif_neg (by simp only [List.length_cons]; omega)]
      · rw [if_neg hj, dif_neg]
        simp only [Config.memSize, Config.romBase, Config.romMax] at *; omega
  refine ⟨fun i h hi => ?_, fun b hb => ?_, fun c hc => ?_⟩
  · have ha : a12 (Config.romBase + i) = Config.romBase + i := by
      simp only [a12, Config.memSize, Config.romBase, Config.romMax] at *; omega
    simp only [State.readByte, State.loadRom, State.setMem_mem, key, ha]
    rw [dif_pos]
    · simp
    · simp only [Config.memSize, Config.romBase, Config.romMax] at *; omega
  · simp only [State.readByte, State.loadRom, State.setMem_mem, State.setMem_inits, key]
    rw [dif_neg]
    rintro ⟨h1, h2, h3⟩
    refine hb (a12 b - Config.romBase) ?_ ?_
    · simp only [Config.memSize, Config.romBase, Config.romMax] at *; omega
    · have : Config.romBase + (a12 b - Config.romBase) = a12 b := by omega
      rw [this]; simp [a12]
  · cases c <;> simp_all [SameOn, State.loadRom]

end Sys2Proof.Machine
end

