-- ==== Sys2Proof/Laws/Display.lean ====
section
/-! SUPPORT. What the sprite blit does to each pixel, and what its collision flag says (R151 to R156). -/

namespace Sys2Proof.Machine

theorem pixel_flipPixel (f : Framebuffer) (r c r' c' : Nat) :
    pixel (flipPixel f r c) r' c' = if r % 32 = r' % 32 ∧ c % 64 = c' % 64 then !pixel f r' c' else pixel f r' c' := by
  unfold pixel flipPixel pixel
  by_cases hr : r % 32 = r' % 32
  · by_cases hc : c % 64 = c' % 64
    · simp [hr, hc]
    · simp [hr, hc]
  · simp [hr]

/-- Whether the columns 0 to `k - 1` of a sprite row `b` drawn at row `r`, column `vx` set the pixel at `r'`, `c'`. -/
def rowCovers (b : Byte) (r vx k r' c' : Nat) : Bool :=
  decide (r % 32 = r' % 32) && (List.range k).any fun j => spriteBit b j && decide ((vx + j) % 64 = c' % 64)

/-- One sprite row toggles exactly the pixels its set bits fall on, and hits iff one of those was lit (R155, R156). -/
theorem plotRow_spec (b : Byte) (r vx : Nat) (p : Framebuffer × Bool) (k : Nat) (hk : k ≤ 64) :
    (∀ r' c', pixel (plotRow b r vx p k).1 r' c' = (pixel p.1 r' c' ^^ rowCovers b r vx k r' c')) ∧
      (plotRow b r vx p k).2 = (p.2 || (List.range k).any fun j => spriteBit b j && pixel p.1 r (vx + j)) := by
  induction k with
  | zero => simp [plotRow, rowCovers]
  | succ k ih =>
    obtain ⟨h1, h2⟩ := ih (by omega)
    have hfresh : rowCovers b r vx k r (vx + k) = false := by
      simp only [rowCovers, Bool.and_eq_false_iff, List.any_eq_false, List.mem_range]
      right
      intro j hj
      have : ¬ (vx + j) % 64 = (vx + k) % 64 := by omega
      simp [this]
    have hsucc : ∀ r' c', rowCovers b r vx (k + 1) r' c' =
        (rowCovers b r vx k r' c' ||
          (decide (r % 32 = r' % 32) && (spriteBit b k && decide ((vx + k) % 64 = c' % 64)))) := by
      intro r' c'
      simp only [rowCovers, List.range_succ, List.any_append, List.any_cons, List.any_nil, Bool.or_false, Bool.and_or_distrib_left]
    have hpix : pixel (plotRow b r vx p k).1 r (vx + k) = pixel p.1 r (vx + k) := by
      rw [h1, hfresh, Bool.xor_false]
    simp only [plotRow, plot]
    split
    · rename_i hb
      refine ⟨fun r' c' => ?_, ?_⟩
      · rw [pixel_flipPixel, h1, hsucc]
        by_cases hr : r % 32 = r' % 32
        · by_cases hc : (vx + k) % 64 = c' % 64
          · have : rowCovers b r vx k r' c' = false := by
              rw [← hfresh]; simp only [rowCovers, hr, hc]
            simp [hr, hc, hb, this]
          · simp [hr, hc]
        · simp [hr]
      · simp [List.range_succ, List.any_append, h2, hpix, hb, Bool.or_assoc]
    · rename_i hb
      refine ⟨fun r' c' => ?_, ?_⟩
      · rw [h1, hsucc]; simp [hb]
      · simp [List.range_succ, List.any_append, h2, hb]

/-- Whether some set bit of the first `n` sprite rows falls on the pixel at `r'`, `c'`. -/
def spriteCovers (s : State) (vx vy n r' c' : Nat) : Bool :=
  (List.range n).any fun row => rowCovers (s.readByte (s.indexed row)) (vy + row) vx 8 r' c'

theorem spriteCovers_iff (s : State) (vx vy n r' c' : Nat) :
    spriteCovers s vx vy n r' c' = true ↔ SpriteCovers s vx vy n (r' % 32) (c' % 64) := by
  simp only [spriteCovers, rowCovers, SpriteCovers, spriteBit, State.indexed, List.any_eq_true, List.mem_range,
    Bool.and_eq_true, decide_eq_true_eq]
  constructor
  · rintro ⟨row, h, h1, col, h2, h3, h4⟩
    exact ⟨row, h, col, h2, h3, h1, h4⟩
  · rintro ⟨row, h, col, h2, h3, h1, h4⟩
    exact ⟨row, h, h1, col, h2, h3, h4⟩

/-- The blit toggles exactly the pixels the sprite covers, and reports a hit iff one of them was lit before (R151, R155). -/
theorem State.plotSprite_spec (s : State) (vx vy n : Nat) (hn : n ≤ 32) :
    (∀ r' c', pixel (s.plotSprite vx vy n).1 r' c' = (pixel s.fb r' c' ^^ spriteCovers s vx vy n r' c')) ∧
      ((s.plotSprite vx vy n).2 = true ↔ ∃ r' c', spriteCovers s vx vy n r' c' = true ∧ pixel s.fb r' c' = true) := by
  induction n with
  | zero => simp [State.plotSprite, spriteCovers]
  | succ n ih =>
    obtain ⟨h1, h2⟩ := ih (by omega)
    obtain ⟨g1, g2⟩ := plotRow_spec (s.readByte (s.indexed n)) (vy + n) vx (s.plotSprite vx vy n) 8 (by omega)
    have hsucc : ∀ r' c', spriteCovers s vx vy (n + 1) r' c' =
        (spriteCovers s vx vy n r' c' || rowCovers (s.readByte (s.indexed n)) (vy + n) vx 8 r' c') := by
      intro r' c'
      simp only [spriteCovers, List.range_succ, List.any_append, List.any_cons, List.any_nil, Bool.or_false]
    have hfresh : ∀ r' c', (vy + n) % 32 = r' % 32 → spriteCovers s vx vy n r' c' = false := by
      intro r' c' hr
      simp only [spriteCovers, List.any_eq_false, List.mem_range]
      intro row hrow
      have : ¬ (vy + row) % 32 = r' % 32 := by omega
      simp [rowCovers, this]
    refine ⟨fun r' c' => ?_, ?_⟩
    · rw [State.plotSprite, g1, h1, hsucc]
      by_cases hr : (vy + n) % 32 = r' % 32
      · simp [hfresh r' c' hr]
      · simp [rowCovers, hr]
    · rw [State.plotSprite, g2, Bool.or_eq_true, h2]
      simp only [hsucc, Bool.or_eq_true, List.any_eq_true, List.mem_range, Bool.and_eq_true]
      constructor
      · rintro (⟨r', c', hc, hp⟩ | ⟨j, hj, hb, hp⟩)
        · exact ⟨r', c', .inl hc, hp⟩
        · refine ⟨vy + n, vx + j, .inr ?_, ?_⟩
          · simp only [rowCovers, decide_true, Bool.true_and, List.any_eq_true, List.mem_range, Bool.and_eq_true]
            exact ⟨j, hj, hb, by simp⟩
          · rw [h1, hfresh _ _ rfl, Bool.xor_false] at hp; exact hp
      · rintro ⟨r', c', hc | hc, hp⟩
        · exact .inl ⟨r', c', hc, hp⟩
        · right
          simp only [rowCovers, Bool.and_eq_true, decide_eq_true_eq, List.any_eq_true, List.mem_range] at hc
          obtain ⟨hr, j, hj, hb, hcol⟩ := hc
          refine ⟨j, hj, hb, ?_⟩
          have : pixel (s.plotSprite vx vy n).1 (vy + n) (vx + j) = pixel (s.plotSprite vx vy n).1 r' c' := by
            unfold pixel; simp only [hr, hcol]
          rw [this, h1, hfresh _ _ hr, Bool.xor_false, hp]

/-- The blit depends on the framebuffer, I and memory alone. -/
theorem State.plotSprite_congr (s t : State) (hf : t.fb = s.fb) (hi : t.index = s.index) (hm : t.mem = s.mem)
    (hn : t.inits = s.inits) (vx vy n : Nat) : t.plotSprite vx vy n = s.plotSprite vx vy n := by
  induction n with
  | zero => simp [State.plotSprite, hf]
  | succ n ih => simp only [State.plotSprite, ih, State.indexed, State.readByte, hm, hi, hn]

/-- Framebuffers with the same pixels are equal. -/
theorem framebuffer_ext (f g : Framebuffer) (h : ∀ r c, r < 32 → c < 64 → pixel f r c = pixel g r c) : f = g := by
  apply Vector.ext
  intro r hr
  apply Vector.ext
  intro c hc
  simpa [pixel, Nat.mod_eq_of_lt hr, Nat.mod_eq_of_lt hc] using h r c hr hc

end Sys2Proof.Machine
end

