-- ==== Sys2Proof/Laws/Flags.lean ====
section
/-! SUPPORT. The flag and result bytes as numbers (spec/42_alu.md R128 to R134). -/

namespace Sys2Proof.Machine

theorem flagByte_toNat (c : Bool) : (flagByte c).toNat = if c then 1 else 0 := by cases c <;> rfl

theorem sumByte_toNat (a b : Byte) : (sumByte a b).toNat = (a.toNat + b.toNat) % 256 := by simp [sumByte]

/-- The subtraction of R129 and R134: the integer difference modulo 256. -/
theorem diffByte_toInt (a b : Byte) : ((diffByte a b).toNat : Int) = (a.toNat - b.toNat : Int) % 256 := by
  simp only [diffByte, BitVec.toNat_ofNat]
  split <;> omega

theorem carryFlag_eq (a b : Byte) : carryFlag a b = if a.toNat + b.toNat > 255 then 1 else 0 := by
  simp [carryFlag, flagByte]

theorem greaterFlag_eq (a b : Byte) : greaterFlag a b = if a.toNat > b.toNat then 1 else 0 := by
  simp [greaterFlag, flagByte]

theorem shrByte_toNat (a : Byte) : (shrByte a).toNat = a.toNat / 2 := by
  simp only [shrByte, BitVec.toNat_ofNat]
  omega

theorem shlByte_toNat (a : Byte) : (shlByte a).toNat = a.toNat * 2 % 256 := by simp [shlByte]

theorem lowBitFlag_toNat (a : Byte) : (lowBitFlag a).toNat = a.toNat % 2 := by
  simp only [lowBitFlag, flagByte_toNat, BitVec.getLsbD, Nat.testBit_zero, decide_eq_true_eq]
  split <;> omega

theorem highBitFlag_toNat (a : Byte) : (highBitFlag a).toNat = a.toNat / 128 := by
  have := a.isLt
  simp only [highBitFlag, flagByte_toNat, BitVec.getLsbD, Nat.testBit_eq_decide_div_mod_eq, decide_eq_true_eq]
  split <;> omega

end Sys2Proof.Machine
end

