-- ==== Sys2Proof/Laws/PerInstr.lean ====
section
/-! SUPPORT. The family EncodingFits: the word of an instruction matches the instruction's own row of the opcode table
(spec/30_encoding.md R75). One lemma per constructor; the host's case split joins them. -/

namespace Sys2Proof.Laws

theorem encodeXY_masked (op : BitVec 4) (x y : Reg) (fn : BitVec 4) : encodeXY op x y fn &&& 0xF00F = encodeXY op 0 0 fn := by
  show (op ++ x ++ y ++ fn : BitVec (4 + 4 + 4 + 4)) &&& (0xF#4 ++ 0x0#4 ++ 0x0#4 ++ 0xF#4 : BitVec (4 + 4 + 4 + 4)) =
    (op ++ 0x0#4 ++ 0x0#4 ++ fn : BitVec (4 + 4 + 4 + 4))
  simp only [BitVec.and_append]
  congr 1
  · congr 1
    · congr 1
      · exact BitVec.and_allOnes
      · exact BitVec.and_zero
    · exact BitVec.and_zero
  · exact BitVec.and_allOnes

theorem encodeXY_family (op : BitVec 4) (x y : Reg) (fn : BitVec 4) : encodeXY op x y fn &&& 0xF000 = encodeXY op 0 0 0 := by
  show (op ++ x ++ y ++ fn : BitVec (4 + 4 + 4 + 4)) &&& (0xF#4 ++ 0x0#4 ++ 0x0#4 ++ 0x0#4 : BitVec (4 + 4 + 4 + 4)) =
    (op ++ 0x0#4 ++ 0x0#4 ++ 0x0#4 : BitVec (4 + 4 + 4 + 4))
  simp only [BitVec.and_append]
  congr 1
  · congr 1
    · congr 1
      · exact BitVec.and_allOnes
      · exact BitVec.and_zero
    · exact BitVec.and_zero
  · exact BitVec.and_zero

theorem encodeXK_masked (op : BitVec 4) (x : Reg) (kk : Byte) : encodeXK op x kk &&& 0xF0FF = encodeXK op 0 kk := by
  show (op ++ x ++ kk : BitVec (4 + 4 + 8)) &&& (0xF#4 ++ 0x0#4 ++ 0xFF#8 : BitVec (4 + 4 + 8)) =
    (op ++ 0x0#4 ++ kk : BitVec (4 + 4 + 8))
  simp only [BitVec.and_append]
  congr 1
  · congr 1
    · exact BitVec.and_allOnes
    · exact BitVec.and_zero
  · exact BitVec.and_allOnes

theorem encodeXK_family (op : BitVec 4) (x : Reg) (kk : Byte) : encodeXK op x kk &&& 0xF000 = encodeXK op 0 0 := by
  show (op ++ x ++ kk : BitVec (4 + 4 + 8)) &&& (0xF#4 ++ 0x0#4 ++ 0x00#8 : BitVec (4 + 4 + 8)) =
    (op ++ 0x0#4 ++ 0x00#8 : BitVec (4 + 4 + 8))
  simp only [BitVec.and_append]
  congr 1
  · congr 1
    · exact BitVec.and_allOnes
    · exact BitVec.and_zero
  · exact BitVec.and_zero

theorem encodeA_family (op : BitVec 4) (nnn : Addr12) : encodeA op nnn &&& 0xF000 = encodeA op 0 := by
  show (op ++ nnn : BitVec (4 + 12)) &&& (0xF#4 ++ 0x000#12 : BitVec (4 + 12)) = (op ++ 0x000#12 : BitVec (4 + 12))
  simp only [BitVec.and_append]
  congr 1
  · exact BitVec.and_allOnes
  · exact BitVec.and_zero

/-- The word of `i` matches the row of `i` (R75). -/
def EncodingFits.Statement (i : Instr) : Prop := i.row.covers (encode i) = true

theorem EncodingFits.cls : EncodingFits.Statement .cls := by unfold EncodingFits.Statement; decide

theorem EncodingFits.ret : EncodingFits.Statement .ret := by unfold EncodingFits.Statement; decide

theorem EncodingFits.jp (nnn : Addr12) : EncodingFits.Statement (.jp nnn) := by
  simp only [EncodingFits.Statement, Instr.row, OpcodeRow.covers, encode, encodeA_family]; decide

theorem EncodingFits.call (nnn : Addr12) : EncodingFits.Statement (.call nnn) := by
  simp only [EncodingFits.Statement, Instr.row, OpcodeRow.covers, encode, encodeA_family]; decide

theorem EncodingFits.seImm (x : Reg) (kk : Byte) : EncodingFits.Statement (.seImm x kk) := by
  simp only [EncodingFits.Statement, Instr.row, OpcodeRow.covers, encode, encodeXK_family]; decide

theorem EncodingFits.sneImm (x : Reg) (kk : Byte) : EncodingFits.Statement (.sneImm x kk) := by
  simp only [EncodingFits.Statement, Instr.row, OpcodeRow.covers, encode, encodeXK_family]; decide

theorem EncodingFits.seReg (x y : Reg) : EncodingFits.Statement (.seReg x y) := by
  simp only [EncodingFits.Statement, Instr.row, OpcodeRow.covers, encode, encodeXY_masked]; decide

theorem EncodingFits.ldImm (x : Reg) (kk : Byte) : EncodingFits.Statement (.ldImm x kk) := by
  simp only [EncodingFits.Statement, Instr.row, OpcodeRow.covers, encode, encodeXK_family]; decide

theorem EncodingFits.addImm (x : Reg) (kk : Byte) : EncodingFits.Statement (.addImm x kk) := by
  simp only [EncodingFits.Statement, Instr.row, OpcodeRow.covers, encode, encodeXK_family]; decide

theorem EncodingFits.ldReg (x y : Reg) : EncodingFits.Statement (.ldReg x y) := by
  simp only [EncodingFits.Statement, Instr.row, OpcodeRow.covers, encode, encodeXY_masked]; decide

theorem EncodingFits.orReg (x y : Reg) : EncodingFits.Statement (.orReg x y) := by
  simp only [EncodingFits.Statement, Instr.row, OpcodeRow.covers, encode, encodeXY_masked]; decide

theorem EncodingFits.andReg (x y : Reg) : EncodingFits.Statement (.andReg x y) := by
  simp only [EncodingFits.Statement, Instr.row, OpcodeRow.covers, encode, encodeXY_masked]; decide

theorem EncodingFits.xorReg (x y : Reg) : EncodingFits.Statement (.xorReg x y) := by
  simp only [EncodingFits.Statement, Instr.row, OpcodeRow.covers, encode, encodeXY_masked]; decide

theorem EncodingFits.addReg (x y : Reg) : EncodingFits.Statement (.addReg x y) := by
  simp only [EncodingFits.Statement, Instr.row, OpcodeRow.covers, encode, encodeXY_masked]; decide

theorem EncodingFits.subReg (x y : Reg) : EncodingFits.Statement (.subReg x y) := by
  simp only [EncodingFits.Statement, Instr.row, OpcodeRow.covers, encode, encodeXY_masked]; decide

theorem EncodingFits.shr (x y : Reg) : EncodingFits.Statement (.shr x y) := by
  simp only [EncodingFits.Statement, Instr.row, OpcodeRow.covers, encode, encodeXY_masked]; decide

theorem EncodingFits.subnReg (x y : Reg) : EncodingFits.Statement (.subnReg x y) := by
  simp only [EncodingFits.Statement, Instr.row, OpcodeRow.covers, encode, encodeXY_masked]; decide

theorem EncodingFits.shl (x y : Reg) : EncodingFits.Statement (.shl x y) := by
  simp only [EncodingFits.Statement, Instr.row, OpcodeRow.covers, encode, encodeXY_masked]; decide

theorem EncodingFits.sneReg (x y : Reg) : EncodingFits.Statement (.sneReg x y) := by
  simp only [EncodingFits.Statement, Instr.row, OpcodeRow.covers, encode, encodeXY_masked]; decide

theorem EncodingFits.ldIndex (nnn : Addr12) : EncodingFits.Statement (.ldIndex nnn) := by
  simp only [EncodingFits.Statement, Instr.row, OpcodeRow.covers, encode, encodeA_family]; decide

theorem EncodingFits.jpV0 (nnn : Addr12) : EncodingFits.Statement (.jpV0 nnn) := by
  simp only [EncodingFits.Statement, Instr.row, OpcodeRow.covers, encode, encodeA_family]; decide

theorem EncodingFits.rnd (x : Reg) (kk : Byte) : EncodingFits.Statement (.rnd x kk) := by
  simp only [EncodingFits.Statement, Instr.row, OpcodeRow.covers, encode, encodeXK_family]; decide

theorem EncodingFits.drw (x y : Reg) (n : BitVec 4) : EncodingFits.Statement (.drw x y n) := by
  simp only [EncodingFits.Statement, Instr.row, OpcodeRow.covers, encode, encodeXY_family]; decide

theorem EncodingFits.skp (x : Reg) : EncodingFits.Statement (.skp x) := by
  simp only [EncodingFits.Statement, Instr.row, OpcodeRow.covers, encode, encodeXK_masked]; decide

theorem EncodingFits.sknp (x : Reg) : EncodingFits.Statement (.sknp x) := by
  simp only [EncodingFits.Statement, Instr.row, OpcodeRow.covers, encode, encodeXK_masked]; decide

theorem EncodingFits.ldVxDt (x : Reg) : EncodingFits.Statement (.ldVxDt x) := by
  simp only [EncodingFits.Statement, Instr.row, OpcodeRow.covers, encode, encodeXK_masked]; decide

theorem EncodingFits.ldVxKey (x : Reg) : EncodingFits.Statement (.ldVxKey x) := by
  simp only [EncodingFits.Statement, Instr.row, OpcodeRow.covers, encode, encodeXK_masked]; decide

theorem EncodingFits.ldDtVx (x : Reg) : EncodingFits.Statement (.ldDtVx x) := by
  simp only [EncodingFits.Statement, Instr.row, OpcodeRow.covers, encode, encodeXK_masked]; decide

theorem EncodingFits.ldStVx (x : Reg) : EncodingFits.Statement (.ldStVx x) := by
  simp only [EncodingFits.Statement, Instr.row, OpcodeRow.covers, encode, encodeXK_masked]; decide

theorem EncodingFits.addIndex (x : Reg) : EncodingFits.Statement (.addIndex x) := by
  simp only [EncodingFits.Statement, Instr.row, OpcodeRow.covers, encode, encodeXK_masked]; decide

theorem EncodingFits.ldFont (x : Reg) : EncodingFits.Statement (.ldFont x) := by
  simp only [EncodingFits.Statement, Instr.row, OpcodeRow.covers, encode, encodeXK_masked]; decide

theorem EncodingFits.ldBcd (x : Reg) : EncodingFits.Statement (.ldBcd x) := by
  simp only [EncodingFits.Statement, Instr.row, OpcodeRow.covers, encode, encodeXK_masked]; decide

theorem EncodingFits.storeRegs (x : Reg) : EncodingFits.Statement (.storeRegs x) := by
  simp only [EncodingFits.Statement, Instr.row, OpcodeRow.covers, encode, encodeXK_masked]; decide

theorem EncodingFits.loadRegs (x : Reg) : EncodingFits.Statement (.loadRegs x) := by
  simp only [EncodingFits.Statement, Instr.row, OpcodeRow.covers, encode, encodeXK_masked]; decide

end Sys2Proof.Laws
end

