-- ==== Sys2Proof/Laws/Tick.lean ====
section
/-! SUPPORT. What the parts of a Tick and of a step can do, said once: the poll, the timer advance, the transactions. -/

namespace Sys2Proof.Machine

/-! ### The key-wait poll -/

theorem leastKey_none (keys : BitVec 16) : leastKey keys = none ↔ ∀ k, k < 16 → keys.getLsbD k = false := by
  simp [leastKey, List.find?_eq_none]

theorem leastKey_some (keys : BitVec 16) (k : Nat) :
    leastKey keys = some k ↔ k < 16 ∧ keys.getLsbD k = true ∧ ∀ j, j < k → keys.getLsbD j = false := by
  simp only [leastKey, List.find?_range_eq_some]
  constructor
  · rintro ⟨h1, h2, h3⟩
    exact ⟨by simpa using h2, h1, fun j hj => by simpa using h3 j hj⟩
  · rintro ⟨h1, h2, h3⟩
    exact ⟨h2, by simpa using h1, fun j hj => by simpa using h3 j hj⟩

/-- The poll writes registers and the execution state, and nothing else (R92). -/
theorem State.poll_onlyChanges (s : State) (x : Reg) : OnlyChanges s (s.poll x) [.v, .es] := by
  intro c hc
  unfold State.poll
  split
  · cases c <;> simp [SameOn]
  · cases c <;> simp_all [SameOn]

/-! ### The timer advance -/

/-- Each half of the timer advance answers the same state, or the state with one timer one lower and its reference at now. -/
theorem State.advanceDelay_cases (s : State) :
    (s.advanceDelay = s ∧ timerDue s.dt s.dtRef s.inputs.now s.t60 = false) ∨
      (s.advanceDelay = s.setDelay (s.dt - 1) s.inputs.now ∧ timerDue s.dt s.dtRef s.inputs.now s.t60 = true) := by
  unfold State.advanceDelay
  cases timerDue s.dt s.dtRef s.inputs.now s.t60 <;> simp

theorem State.advanceSound_cases (s : State) :
    (s.advanceSound = s ∧ timerDue s.st s.stRef s.inputs.now s.t60 = false) ∨
      (s.advanceSound = s.setSound (s.st - 1) s.inputs.now ∧ timerDue s.st s.stRef s.inputs.now s.t60 = true) := by
  unfold State.advanceSound
  cases timerDue s.st s.stRef s.inputs.now s.t60 <;> simp

/-- The timer advance writes the two timers and their references, and nothing else (R95). -/
theorem State.advanceTimers_onlyChanges (s : State) : OnlyChanges s s.advanceTimers [.delay, .sound] := by
  intro c hc
  unfold State.advanceTimers
  rcases s.advanceDelay_cases with ⟨h, -⟩ | ⟨h, -⟩ <;>
    rcases s.advanceDelay.advanceSound_cases with ⟨h', -⟩ | ⟨h', -⟩ <;>
    rw [h'] <;> rw [h] at * <;> cases c <;> simp_all [SameOn]

@[simp] theorem State.advanceTimers_stack (s : State) : s.advanceTimers.stack = s.stack :=
  s.advanceTimers_onlyChanges .stack (by decide)

@[simp] theorem State.advanceTimers_pc (s : State) : s.advanceTimers.pc = s.pc :=
  s.advanceTimers_onlyChanges .pc (by decide)

@[simp] theorem State.advanceTimers_t60 (s : State) : s.advanceTimers.t60 = s.t60 :=
  s.advanceTimers_onlyChanges .t60 (by decide)

@[simp] theorem State.advanceTimers_readByte (s : State) (a : Nat) : s.advanceTimers.readByte a = s.readByte a :=
  s.advanceTimers_onlyChanges .mem (by decide) a

@[simp] theorem State.advanceTimers_mem (s : State) : s.advanceTimers.mem = s.mem := by
  unfold State.advanceTimers
  rcases s.advanceDelay_cases with ⟨h, -⟩ | ⟨h, -⟩ <;>
    rcases s.advanceDelay.advanceSound_cases with ⟨h', -⟩ | ⟨h', -⟩ <;> rw [h', h] <;> simp

/-- The fetch of a Tick is the fetch of the state before the timer advance (R91, R95). -/
@[simp] theorem State.advanceTimers_fetch (s : State) : s.advanceTimers.fetch = s.fetch := by
  simp [State.fetch]

/-! ### What a Tick and a step can be -/

/-- A Tick is a poll, an instruction, or the operation of an unknown word (R91, R100). -/
theorem tick_cases (s : State) :
    (∃ x, s.es = .awaitingKey x ∧ tick s = .next (s.poll x)) ∨
      (∃ i, s.es = .running ∧ decode s.fetch = .known i ∧ tick s = exec i s.advanceTimers) ∨
      (∃ w, s.es = .running ∧ decode s.fetch = .unknown w ∧ tick s = execUnknown w s.advanceTimers) := by
  unfold tick
  split
  · rename_i x hx; exact .inl ⟨x, hx, rfl⟩
  · rename_i hx
    simp only [State.runInstruction, State.advanceTimers_fetch]
    cases h : decode s.fetch with
    | known i => exact .inr (.inl ⟨i, hx, rfl, rfl⟩)
    | unknown w => exact .inr (.inr ⟨w, hx, rfl, rfl⟩)

/-- A step is an Init, a LoadROM, a Tick, or a refusal before the first Init. -/
theorem step_cases (s : State) :
    (∃ r, s.host = .init :: r ∧ step s = .next ({ s with host := r } : State).init) ∨
      (∃ rom r, s.host = .loadRom rom :: r ∧ s.phase = .initialised ∧
        step s = .next (({ s with host := r } : State).loadRom rom)) ∨
      (∃ inp r, s.host = .tick inp :: r ∧ s.phase = .initialised ∧
        step s = tick (({ s with host := r } : State).sample inp)) ∨
      (s.host = [] ∧ s.phase = .initialised ∧
        step s = tick (({ s with freeTicks := s.freeTicks + 1 } : State).sample (freeInputs s.freeTicks))) ∨
      (s.phase = .beforeInit ∧ step s = .refused .beforeInit) := by
  unfold step State.takeTransaction
  cases h : s.host with
  | nil => cases hp : s.phase <;> simp [performTransaction]
  | cons t r => cases t <;> cases hp : s.phase <;> simp [performTransaction]

/-- A step after Init whose transaction is a Tick is that Tick (R90). -/
theorem step_of_tickBegins {s b : State} (hp : s.phase = .initialised) (h : TickBegins s b) : step s = tick b := by
  rcases h with ⟨inp, rest, hh, rfl⟩ | ⟨hh, rfl⟩ <;> simp [step, State.takeTransaction, performTransaction, hh, hp]

/-- A Tick begins with the result OK (R12, R35). -/
theorem TickBegins.result_ok {s b : State} (h : TickBegins s b) : b.result = .ok := by
  rcases h with ⟨_, _, _, rfl⟩ | ⟨_, rfl⟩ <;> rfl

/-- A Tick begins in the state of the step but for the host's list, the sampled inputs and the result (R35). -/
theorem TickBegins.onlyChanges {s b : State} (h : TickBegins s b) : OnlyChanges s b [.host, .inputs, .result] := by
  intro c hc
  rcases h with ⟨_, _, _, rfl⟩ | ⟨_, rfl⟩ <;> cases c <;> first | rfl | exact fun _ => rfl | exact ⟨rfl, rfl⟩ | simp at hc

/-- The operation of an unknown word moves PC and reports the word, and nothing else (R118). -/
theorem execUnknown_onlyChanges (w : Word) (s : State) :
    ∃ t, execUnknown w s = .next t ∧ t.pc = s.pc + 2 ∧ t.result = .unknownOpcode w ∧ OnlyChanges s t [.pc, .result] :=
  ⟨_, rfl, rfl, rfl, fun c hc => by
    cases c <;> first | rfl | exact fun _ => rfl | exact ⟨rfl, rfl⟩ | simp at hc⟩

/-! ### Runs -/

/-- A run of one step more, from its first step, for any machine of the interface. -/
theorem run_of_step (M : Host.Core) (k : Nat) (s t : M.State) (h : M.step s = .next t) : M.run (k + 1) s = M.run k t := by
  simp only [Host.Core.run, h]

/-- A run that ends in a next state begins with a step that gives one. -/
theorem step_of_run (M : Host.Core) (k : Nat) (s t : M.State) (h : M.run (k + 1) s = .next t) :
    ∃ u, M.step s = .next u ∧ M.run k u = .next t := by
  simp only [Host.Core.run] at h
  split at h
  · exact ⟨_, by assumption, h⟩
  · cases h
  · cases h

/-- A run of this machine of one step more. -/
theorem run_succ (k : Nat) (s t : State) (h : step s = .next t) : core.run (k + 1) s = core.run k t :=
  run_of_step core k s t h

end Sys2Proof.Machine
end

