-- ==== Sys2Proof/Machine/Asm.lean ====
section
/-! DEFINITION. The spec's assembler notation for instructions (spec/30_encoding.md R80) and its data directives
(R81), and a program as the bytes of a ROM (R192). The core itself has no part in these. -/

namespace Sys2Proof.Machine

/-- One hexadecimal digit (R80). -/
def hexDigit (d : BitVec 4) : String :=
  ["0", "1", "2", "3", "4", "5", "6", "7", "8", "9", "A", "B", "C", "D", "E", "F"].getD d.toNat ""

/-- A register's name, V0 to VF (R21, R80). -/
def regName (x : Reg) : String := "V" ++ hexDigit x

/-- A byte literal (R80). -/
def byteLiteral (kk : Byte) : String := "0x" ++ hexDigit (kk.extractLsb' 4 4) ++ hexDigit (kk.extractLsb' 0 4)

/-- A 12-bit literal (R80). -/
def addrLiteral (a : Addr12) : String :=
  "0x" ++ hexDigit (a.extractLsb' 8 4) ++ hexDigit (a.extractLsb' 4 4) ++ hexDigit (a.extractLsb' 0 4)

/-- A mnemonic with two operands (R80). -/
def asm2 (m a b : String) : String := m ++ " " ++ a ++ "," ++ b

/-- An instruction in the notation of R80; the ignored field of SHR and SHL does not show. -/
def disassemble : Instr → String
  | .cls => "CLS"
  | .ret => "RET"
  | .jp nnn => "JP " ++ addrLiteral nnn
  | .call nnn => "CALL " ++ addrLiteral nnn
  | .seImm x kk => asm2 "SE" (regName x) (byteLiteral kk)
  | .sneImm x kk => asm2 "SNE" (regName x) (byteLiteral kk)
  | .seReg x y => asm2 "SE" (regName x) (regName y)
  | .ldImm x kk => asm2 "LD" (regName x) (byteLiteral kk)
  | .addImm x kk => asm2 "ADD" (regName x) (byteLiteral kk)
  | .ldReg x y => asm2 "LD" (regName x) (regName y)
  | .orReg x y => asm2 "OR" (regName x) (regName y)
  | .andReg x y => asm2 "AND" (regName x) (regName y)
  | .xorReg x y => asm2 "XOR" (regName x) (regName y)
  | .addReg x y => asm2 "ADD" (regName x) (regName y)
  | .subReg x y => asm2 "SUB" (regName x) (regName y)
  | .shr x _ => "SHR " ++ regName x
  | .subnReg x y => asm2 "SUBN" (regName x) (regName y)
  | .shl x _ => "SHL " ++ regName x
  | .sneReg x y => asm2 "SNE" (regName x) (regName y)
  | .ldIndex nnn => asm2 "LD" "I" (addrLiteral nnn)
  | .jpV0 nnn => asm2 "JP" "V0" (addrLiteral nnn)
  | .rnd x kk => asm2 "RND" (regName x) (byteLiteral kk)
  | .drw x y n => asm2 "DRW" (regName x) (regName y) ++ ",0x" ++ hexDigit n
  | .skp x => "SKP " ++ regName x
  | .sknp x => "SKNP " ++ regName x
  | .ldVxDt x => asm2 "LD" (regName x) "DT"
  | .ldVxKey x => asm2 "LD" (regName x) "K"
  | .ldDtVx x => asm2 "LD" "DT" (regName x)
  | .ldStVx x => asm2 "LD" "ST" (regName x)
  | .addIndex x => asm2 "ADD" "I" (regName x)
  | .ldFont x => asm2 "LD" "F" (regName x)
  | .ldBcd x => asm2 "LD" "B" (regName x)
  | .storeRegs x => asm2 "LD" "[I]" (regName x)
  | .loadRegs x => asm2 "LD" (regName x) "[I]"

/-- `DW w`: a word as two bytes, most significant first (R81). -/
def dataWord (w : Word) : List Byte := [highByte w, lowByte w]

/-- A program as the bytes of a ROM: big-endian words in order (R81, R192). -/
def assemble (prog : List Instr) : List Byte := prog.flatMap (fun i => dataWord (encode i))

end Sys2Proof.Machine
end

