-- ==== Sys2Proof/Tests/Slice0.lean ====
section
/-! SUPPORT. The model's own tests. The expected values are those of spec/95_test_vectors.md (the vector's id stands in
each docstring) or are written out from the patterns of spec/30_encoding.md R75. -/

namespace Sys2Proof.Tests

open Machine

/-! ## Decoding: one word per constructor, written out from its pattern -/

theorem test_decode_flow :
    decode 0x00E0 = .known .cls ∧ decode 0x00EE = .known .ret ∧ decode 0x1ABC = .known (.jp 0xABC) ∧
    decode 0x2345 = .known (.call 0x345) ∧ decode 0xB678 = .known (.jpV0 0x678) := by decide

theorem test_decode_skips :
    decode 0x3A12 = .known (.seImm 0xA 0x12) ∧ decode 0x4B34 = .known (.sneImm 0xB 0x34) ∧
    decode 0x5CD0 = .known (.seReg 0xC 0xD) ∧ decode 0x9EF0 = .known (.sneReg 0xE 0xF) := by decide

theorem test_decode_immediates :
    decode 0x6A2B = .known (.ldImm 0xA 0x2B) ∧ decode 0x7320 = .known (.addImm 0x3 0x20) ∧
    decode 0xC50F = .known (.rnd 0x5 0x0F) ∧ decode 0xA2F0 = .known (.ldIndex 0x2F0) := by decide

theorem test_decode_family8 :
    decode 0x8120 = .known (.ldReg 1 2) ∧ decode 0x8121 = .known (.orReg 1 2) ∧ decode 0x8122 = .known (.andReg 1 2) ∧
    decode 0x8123 = .known (.xorReg 1 2) ∧ decode 0x8124 = .known (.addReg 1 2) ∧ decode 0x8125 = .known (.subReg 1 2) ∧
    decode 0x8126 = .known (.shr 1 2) ∧ decode 0x8127 = .known (.subnReg 1 2) ∧ decode 0x812E = .known (.shl 1 2) := by decide

theorem test_decode_display_and_keys :
    decode 0xD123 = .known (.drw 1 2 3) ∧ decode 0xE59E = .known (.skp 5) ∧ decode 0xE5A1 = .known (.sknp 5) := by decide

theorem test_decode_familyF :
    decode 0xF407 = .known (.ldVxDt 4) ∧ decode 0xF30A = .known (.ldVxKey 3) ∧ decode 0xF115 = .known (.ldDtVx 1) ∧
    decode 0xF218 = .known (.ldStVx 2) ∧ decode 0xF21E = .known (.addIndex 2) ∧ decode 0xF329 = .known (.ldFont 3) ∧
    decode 0xF133 = .known (.ldBcd 1) ∧ decode 0xF155 = .known (.storeRegs 1) ∧ decode 0xF265 = .known (.loadRegs 2) := by
  decide

/-- The check on words refuses a word of each set of R77 (vectors X2, X5, X7, X6, X10, X12), and the decoder names it. -/
theorem test_ill_formed_words :
    wordWellFormed 0x0123 = false ∧ wordWellFormed 0x5121 = false ∧ wordWellFormed 0x8128 = false ∧
    wordWellFormed 0x9ABF = false ∧ wordWellFormed 0xE19F = false ∧ wordWellFormed 0xF156 = false ∧
    decode 0x0123 = .unknown 0x0123 ∧ decode 0x812F = .unknown 0x812F := by decide

/-- A word whose ignored field is not 0 is well formed (R76), and so are the first and the last row's words. -/
theorem test_well_formed_words :
    wordWellFormed 0x8AB6 = true ∧ wordWellFormed 0x00E0 = true ∧ wordWellFormed 0xFF65 = true := by decide

/-- R80: SHR shows no second register. -/
theorem test_disassemble : disassemble (.shr 0xA 0xB) = "SHR VA" ∧ disassemble (.drw 0 1 5) = "DRW V0,V1,0x5" := by decide

/-- Program P6 as ROM bytes. -/
theorem test_assemble : assemble [.call 0x200] = [0x22, 0x00] := by decide

/-! ## Helpers -/

/-- The state after Init with T60 = 100, as the vectors of spec/95 take it. -/
def base : State := { State.reset with t60 := 100 }

/-- That state with some registers set. -/
def regs (l : List (Reg × Byte)) : State := l.foldl (fun s p => s.setV p.1 p.2) base

/-- Whether an outcome is a next state with a property. -/
def after (o : Out) (p : State → Bool) : Bool :=
  match o with
  | .next t => p t
  | _ => false

/-- The state of an outcome, itself where there is none. -/
def nextOr (s : State) (o : Out) : State :=
  match o with
  | .next t => t
  | _ => s

/-- A state whose next Tick has the given inputs and fetches the given word. -/
def ticking (s : State) (inp : TickInputs) (w : Word) : State := { s.placeWord w with host := [.tick inp] }

/-! ## Control transfer -/

/-- F7. -/
theorem test_ret : after (exec .ret { base with stack := [0x0202, 0x0345] })
    (fun t => decide (t.pc = 0x0345 ∧ t.stack = [0x0202])) = true := by decide

/-- F8. -/
theorem test_ret_empty : after (exec .ret base)
    (fun t => decide (t.pc = 0x0200 ∧ t.stack = [] ∧ t.result = .stackUnderflow)) = true := by decide

/-- F1. -/
theorem test_jp : after (exec (.jp 0xABC) base) (fun t => decide (t.pc = 0x0ABC)) = true := by decide

/-- F6. -/
theorem test_call_wraps : after (exec (.call 0x400) { base with pc := 0xFFFE })
    (fun t => decide (t.pc = 0x0400 ∧ t.stack = [0x0000])) = true := by decide

/-- F9. -/
theorem test_call_full : after (exec (.call 0x200) { base with stack := List.replicate 16 0x0202 })
    (fun t => decide (t.pc = 0x0200 ∧ t.stack.length = 16 ∧ t.result = .stackOverflow)) = true := by decide

/-- F10, F11. -/
theorem test_seImm : after (exec (.seImm 3 0x44) (regs [(3, 0x44)])) (fun t => decide (t.pc = 0x0204)) = true ∧
    after (exec (.seImm 3 0x44) (regs [(3, 0x45)])) (fun t => decide (t.pc = 0x0202)) = true := by decide

/-- F21, F22: a skip wraps. -/
theorem test_seImm_wraps : after (exec (.seImm 0 0x00) { base with pc := 0xFFFE }) (fun t => decide (t.pc = 0x0002)) = true ∧
    after (exec (.seImm 0 0x01) { base with pc := 0xFFFE }) (fun t => decide (t.pc = 0x0000)) = true := by decide

/-- F12, F13. -/
theorem test_sneImm : after (exec (.sneImm 3 0x44) (regs [(3, 0x44)])) (fun t => decide (t.pc = 0x0202)) = true ∧
    after (exec (.sneImm 3 0x44) (regs [(3, 0x45)])) (fun t => decide (t.pc = 0x0204)) = true := by decide

/-- F14, F15. -/
theorem test_seReg : after (exec (.seReg 1 2) (regs [(1, 7), (2, 7)])) (fun t => decide (t.pc = 0x0204)) = true ∧
    after (exec (.seReg 1 2) (regs [(1, 7), (2, 8)])) (fun t => decide (t.pc = 0x0202)) = true := by decide

/-- F17, F19: values, not numbers, are compared. -/
theorem test_sneReg : after (exec (.sneReg 1 2) (regs [(1, 7), (2, 8)])) (fun t => decide (t.pc = 0x0204)) = true ∧
    after (exec (.sneReg 1 2) base) (fun t => decide (t.pc = 0x0202)) = true := by decide

/-- F4: not reduced in the register. -/
theorem test_jpV0 : after (exec (.jpV0 0xFFF) (regs [(0, 0xFF)])) (fun t => decide (t.pc = 0x10FE)) = true := by decide

/-- X2, by a whole step. -/
theorem test_unknown : after (step (ticking base ⟨0, 0, 0⟩ 0x0123))
    (fun t => decide (t.pc = 0x0202 ∧ t.result = .unknownOpcode 0x0123)) = true := by decide

/-! ## Loads, arithmetic, logic, shifts, random -/

/-- A1. -/
theorem test_ldImm : after (exec (.ldImm 5 0xAB) base) (fun t => decide (t.getV 5 = 0xAB ∧ t.pc = 0x0202)) = true := by decide

/-- F23: the fetch crosses the end of memory, by a whole step. -/
theorem test_fetch_crosses_the_end : after (step (ticking { base with pc := 0x0FFF } ⟨0, 0, 0⟩ 0x6A55))
    (fun t => decide (t.getV 0xA = 0x55 ∧ t.pc = 0x1001 ∧ t.readByte 0x000 = 0x55)) = true := by decide

/-- A3. -/
theorem test_addImm : after (exec (.addImm 5 0x01) (regs [(5, 0xFF), (0xF, 1)]))
    (fun t => decide (t.getV 5 = 0x00 ∧ t.getV 0xF = 1)) = true := by decide

/-- A7. -/
theorem test_ldReg : after (exec (.ldReg 1 2) (regs [(1, 0x01), (2, 0x9A)])) (fun t => decide (t.getV 1 = 0x9A)) = true := by
  decide

/-- A8. -/
theorem test_or : after (exec (.orReg 1 2) (regs [(1, 0x5A), (2, 0x0F), (0xF, 1)]))
    (fun t => decide (t.getV 1 = 0x5F ∧ t.getV 0xF = 1)) = true := by decide

/-- A9. -/
theorem test_and : after (exec (.andReg 1 2) (regs [(1, 0x5A), (2, 0x0F), (0xF, 1)]))
    (fun t => decide (t.getV 1 = 0x0A ∧ t.getV 0xF = 1)) = true := by decide

/-- A10. -/
theorem test_xor : after (exec (.xorReg 1 2) (regs [(1, 0x5A), (2, 0x0F), (0xF, 1)]))
    (fun t => decide (t.getV 1 = 0x55 ∧ t.getV 0xF = 1)) = true := by decide

/-- A12, A13: 256 carries, 255 does not and clears the flag. -/
theorem test_addReg : after (exec (.addReg 1 2) (regs [(1, 0xFF), (2, 0x01)]))
      (fun t => decide (t.getV 1 = 0x00 ∧ t.getV 0xF = 1)) = true ∧
    after (exec (.addReg 1 2) (regs [(1, 0xFE), (2, 0x01), (0xF, 1)]))
      (fun t => decide (t.getV 1 = 0xFF ∧ t.getV 0xF = 0)) = true := by decide

/-- A17, A18: VF as destination keeps the flag, VF as operand is read first. -/
theorem test_addReg_vf : after (exec (.addReg 0xF 1) (regs [(0xF, 0x01), (1, 0x02)]))
      (fun t => decide (t.getV 0xF = 0)) = true ∧
    after (exec (.addReg 1 0xF) (regs [(1, 0xFF), (0xF, 0x01)]))
      (fun t => decide (t.getV 1 = 0x00 ∧ t.getV 0xF = 1)) = true := by decide

/-- A21, A23: wraps; equal values give flag 0. -/
theorem test_subReg : after (exec (.subReg 1 2) (regs [(1, 0x03), (2, 0x0A), (0xF, 1)]))
      (fun t => decide (t.getV 1 = 0xF9 ∧ t.getV 0xF = 0)) = true ∧
    after (exec (.subReg 1 2) (regs [(0xF, 1)])) (fun t => decide (t.getV 1 = 0x00 ∧ t.getV 0xF = 0)) = true := by decide

/-- A25. -/
theorem test_subReg_vf : after (exec (.subReg 0xF 1) (regs [(0xF, 0x0A), (1, 0x03)]))
    (fun t => decide (t.getV 0xF = 1)) = true := by decide

/-- A31: the second field is ignored. -/
theorem test_shr : after (exec (.shr 1 2) (regs [(1, 0x81), (2, 0xFF)]))
    (fun t => decide (t.getV 1 = 0x40 ∧ t.getV 0xF = 1 ∧ t.getV 2 = 0xFF)) = true := by decide

/-- A35. -/
theorem test_shr_vf : after (exec (.shr 0xF 0) (regs [(0xF, 0x02)])) (fun t => decide (t.getV 0xF = 0)) = true := by decide

/-- A27, A28. -/
theorem test_subnReg : after (exec (.subnReg 1 2) (regs [(1, 0x03), (2, 0x0A)]))
      (fun t => decide (t.getV 1 = 0x07 ∧ t.getV 0xF = 1)) = true ∧
    after (exec (.subnReg 1 2) (regs [(1, 0x0A), (2, 0x03), (0xF, 1)]))
      (fun t => decide (t.getV 1 = 0xF9 ∧ t.getV 0xF = 0)) = true := by decide

/-- A38, A37: the flag is 1, not 0x80. -/
theorem test_shl : after (exec (.shl 1 2) (regs [(1, 0xFF)])) (fun t => decide (t.getV 1 = 0xFE ∧ t.getV 0xF = 1)) = true ∧
    after (exec (.shl 1 2) (regs [(1, 0x40), (0xF, 1)])) (fun t => decide (t.getV 1 = 0x80 ∧ t.getV 0xF = 0)) = true := by decide

/-- A41. -/
theorem test_rnd : after (exec (.rnd 4 0x0F) { regs [(0xF, 1)] with inputs := ⟨0, 0, 0xA7⟩ })
    (fun t => decide (t.getV 4 = 0x07 ∧ t.getV 0xF = 1)) = true := by decide

/-! ## Index register and memory -/

/-- M1. -/
theorem test_ldIndex : after (exec (.ldIndex 0xABC) { base with index := 0x1234 })
    (fun t => decide (t.index = 0x0ABC)) = true := by decide

/-- M2, M4. -/
theorem test_addIndex : after (exec (.addIndex 1) { regs [(1, 0x10)] with index := 0x0FF8 })
      (fun t => decide (t.index = 0x1008)) = true ∧
    after (exec (.addIndex 1) { regs [(1, 0xFF)] with index := 0xFFFF })
      (fun t => decide (t.index = 0x00FE ∧ t.getV 0xF = 0)) = true := by decide

/-- M7, M9. -/
theorem test_ldFont : after (exec (.ldFont 1) (regs [(1, 0x0F)])) (fun t => decide (t.index = 0x004B)) = true ∧
    after (exec (.ldFont 1) (regs [(1, 0xFF)])) (fun t => decide (t.index = 0x04FB)) = true := by decide

/-- S9. -/
theorem test_ldBcd : after (exec (.ldBcd 1) { regs [(1, 0x9C)] with index := 0x0300 })
    (fun t => decide (t.readByte 0x300 = 1 ∧ t.readByte 0x301 = 5 ∧ t.readByte 0x302 = 6 ∧ t.index = 0x0300)) = true := by decide

/-- M14: every address is reduced on its own. -/
theorem test_ldBcd_wraps : after (exec (.ldBcd 1) { regs [(1, 249)] with index := 0x0FFE })
    (fun t => decide (t.mem = [(0x000, 9), (0xFFE, 2), (0xFFF, 4)])) = true := by decide

/-- M18: three bytes and no more. -/
theorem test_storeRegs : after (exec (.storeRegs 2) { regs [(0, 0x11), (1, 0x22), (2, 0x33), (3, 0x44)] with index := 0x0400 })
    (fun t => decide (t.mem = [(0x400, 0x11), (0x401, 0x22), (0x402, 0x33)] ∧ t.index = 0x0400)) = true := by decide

/-- M17: the read crosses the end of memory. -/
theorem test_loadRegs : after (exec (.loadRegs 3) { regs [(4, 9)] with
      index := 0x0FFE, mem := [(0x000, 0x12), (0x001, 0x13), (0xFFE, 0x10), (0xFFF, 0x11)] })
    (fun t => decide (t.getV 0 = 0x10 ∧ t.getV 1 = 0x11 ∧ t.getV 2 = 0x12 ∧ t.getV 3 = 0x13 ∧ t.getV 4 = 9)) = true := by decide

/-! ## Display -/

/-- G15. -/
theorem test_cls : after (exec .cls { regs [(0xF, 1)] with fb := flipPixel blankFb 31 63 })
    (fun t => decide (pixel t.fb 31 63 = false ∧ t.getV 0xF = 1)) = true := by decide

/-- G9: coordinates are reduced, columns wrap. -/
theorem test_drw_wraps : after (exec (.drw 0 1 1) { regs [(0, 0xFF), (1, 0xFF)] with index := 0x0300, mem := [(0x300, 0xFF)] })
    (fun t => decide (pixel t.fb 31 63 = true ∧ pixel t.fb 31 0 = true ∧ pixel t.fb 31 6 = true ∧ pixel t.fb 31 7 = false ∧
      t.getV 0xF = 0)) = true := by decide

/-- G4: bit 7 is the left end; a lit pixel under a set bit is a collision, one under a clear bit is not. -/
theorem test_drw_collision : after (exec (.drw 0 1 1) { regs [(0, 10), (1, 5)] with
      index := 0x0301, mem := [(0x301, 0x81)], fb := flipPixel (flipPixel blankFb 5 12) 5 17 })
    (fun t => decide (pixel t.fb 5 10 = true ∧ pixel t.fb 5 12 = true ∧ pixel t.fb 5 17 = false ∧ t.getV 0xF = 1)) = true := by
  decide

/-! ## Keys and timers -/

/-- K8, K3. -/
theorem test_skp : after (exec (.skp 1) { regs [(1, 0x17)] with inputs := ⟨0x0080, 0, 0⟩ })
      (fun t => decide (t.pc = 0x0204)) = true ∧
    after (exec (.skp 1) { regs [(1, 5)] with inputs := ⟨0xFFDF, 0, 0⟩ }) (fun t => decide (t.pc = 0x0202)) = true := by decide

/-- K4, K5. -/
theorem test_sknp : after (exec (.sknp 1) { regs [(1, 5)] with inputs := ⟨0x0020, 0, 0⟩ })
      (fun t => decide (t.pc = 0x0202)) = true ∧
    after (exec (.sknp 1) (regs [(1, 5)])) (fun t => decide (t.pc = 0x0204)) = true := by decide

/-- K9, by a whole step. -/
theorem test_ldVxKey : after (step (ticking base ⟨0x0080, 0, 0⟩ 0xF30A))
    (fun t => decide (t.es = .awaitingKey 3 ∧ t.pc = 0x0202 ∧ t.getV 3 = 0)) = true := by decide

/-- T4: the read sees the value after this Tick's advance. -/
theorem test_ldVxDt : after (step (ticking { base with dt := 7 } ⟨0, 100, 0⟩ 0xF207))
    (fun t => decide (t.getV 2 = 6 ∧ t.dt = 6 ∧ t.dtRef = 100)) = true := by decide

/-- T7. -/
theorem test_ldDtVx : after (step (ticking { regs [(1, 9)] with dt := 7 } ⟨0, 250, 0⟩ 0xF115))
    (fun t => decide (t.dt = 9 ∧ t.dtRef = 250)) = true := by decide

/-- T10. -/
theorem test_ldStVx : after (step (ticking (regs [(1, 4)]) ⟨0, 333, 0⟩ 0xF118))
    (fun t => decide (t.st = 4 ∧ t.stRef = 333)) = true := by decide

/-- T11, T13: the timers are tested separately, and lose at most 1. -/
theorem test_timers : after (step (ticking { base with dt := 5, st := 2, stRef := 60 } ⟨0, 130, 0⟩ 0x1200))
      (fun t => decide (t.dt = 4 ∧ t.dtRef = 130 ∧ t.st = 2 ∧ t.stRef = 60)) = true ∧
    after (step (ticking { base with dt := 5 } ⟨0, 1450, 0⟩ 0x1200)) (fun t => decide (t.dt = 4 ∧ t.dtRef = 1450)) = true := by decide

/-- Trace K1, Tick 4 and its variant with keys 4 and 7. -/
theorem test_poll : after (step { base with es := .awaitingKey 3, host := [.tick ⟨0x0080, 0, 0⟩] })
      (fun t => decide (t.getV 3 = 7 ∧ t.es = .running ∧ t.pc = 0x0200)) = true ∧
    after (step { base with es := .awaitingKey 3, host := [.tick ⟨0x0090, 0, 0⟩] }) (fun t => decide (t.getV 3 = 4)) = true := by decide

/-- R192: LoadROM, then the first Tick runs the word at 0x200. -/
theorem test_loadRom : after (core.run 2 { base with host := [.loadRom [0x65, 0xAB], .tick ⟨0, 0, 0⟩] })
    (fun t => decide (t.getV 5 = 0xAB ∧ t.pc = 0x0202)) = true := by decide

/-- The host's view of an instruction of the table: decoded, and run as the first after reset. -/
theorem test_withFetchWord : decodeTableWord 16 0x6A55 = some (.ldImm 0xA 0x55) ∧
    after (step (State.reset.withFetchWord 16 0x6A55)) (fun t => decide (t.getV 0xA = 0x55)) = true := by decide

/-! ## Witnesses: concrete values that meet the hypotheses of each statement together -/

theorem witness_EncodeOfDecodeIsTheWord : decode 0x8AB6 = .known (.shr 0xA 0xB) := by decide

/-- The first and the last word of some rows, and one word of each row of a family that shares its nibble (R75). -/
theorem witness_EveryRowOfTheTableDecodes :
    0x1000 / 4096 = 1 ∧ 0x1FFF / 4096 = 1 ∧ 0xDFFF / 4096 = 13 ∧
    (0x5FF0 / 4096 = 5 ∧ BitVec.ofNat 4 0x5FF0 = 0) ∧ (0x9000 / 4096 = 9 ∧ BitVec.ofNat 4 0x9000 = 0) ∧
    (∀ n ∈ [0, 1, 2, 3, 4, 5, 6, 7, 0xE], (0x8AB0 + n) / 4096 = 8 ∧ (BitVec.ofNat 4 (0x8AB0 + n)).toNat = n) ∧
    (∀ k ∈ [0x9E, 0xA1], (0xEF00 + k) / 4096 = 14 ∧ (BitVec.ofNat 8 (0xEF00 + k)).toNat = k) ∧
    (∀ k ∈ [0x07, 0x0A, 0x15, 0x18, 0x1E, 0x29, 0x33, 0x55, 0x65],
      (0xF000 + k) / 4096 = 15 ∧ (BitVec.ofNat 8 (0xF000 + k)).toNat = k) := by decide

theorem witness_DecodesIffARowCoversTheWord : wordWellFormed 0x00EE = true ∧ wordWellFormed 0x00EF = false := by decide

theorem witness_NoTwoRowsCoverAWord : (opcodeTable[33]'(by decide)).covers 0xFF65 = true := by decide

theorem witness_ReturnPopsIntoPc : ({ base with stack := [0x0202, 0x0345] } : State).stack = [0x0202] ++ [0x0345] := rfl

theorem witness_CallPushesAndJumps : ({ base with stack := List.replicate 15 0x0202 } : State).stack.length < 16 := by decide

theorem witness_StackErrorsWriteNothing :
    ({ base with stack := List.replicate 16 0x0202 } : State).stack.length = 16 ∧ base.stack = [] := by decide

theorem witness_FlagSettersWithOtherDestination : (0xE : Reg) ≠ 0xF ∧ (0x0 : Reg) ≠ 0xF := by decide

/-- A store state for the memory witnesses: V0 = 0x60, V1 = 0xAB, I = 0x0FFF. -/
def storing : State := { regs [(0, 0x60), (1, 0xAB)] with index := 0x0FFF }

/-- The state after LD [I],V1 on it. -/
def stored : State := (storing.storeUpTo 2).advance

theorem witness_BulkStoreThenLoadRoundTrip :
    exec (.storeRegs 1) storing = .next stored ∧ SameOn stored (stored.setV 0 7) .index ∧
    SameOn stored (stored.setV 0 7) .mem ∧
    exec (.loadRegs 1) (stored.setV 0 7) = .next ((stored.setV 0 7).loadUpTo 2).advance ∧ (1 : Reg).toNat ≤ (1 : Reg).toNat :=
  ⟨rfl, rfl, fun _ => rfl, rfl, Nat.le_refl _⟩

theorem witness_StoredBytesAreFetched :
    exec (.storeRegs 1) storing = .next stored ∧ 0 < (1 : Reg).toNat ∧ (0x1FFF : Word).toNat % 4096 = (storing.index.toNat + 0) % 4096 :=
  ⟨rfl, by decide, by decide⟩

/-- A sprite state: row byte 0x81 at I, column 62, row 31, the pixel at (31, 62) lit. -/
def drawing : State := { regs [(0, 62), (1, 31)] with index := 0x0300, mem := [(0x300, 0x81)], fb := flipPixel blankFb 31 62 }

/-- The state after DRW V0,V1,1 on it. -/
def drawn : State := nextOr drawing (exec (.drw 0 1 1) drawing)

/-- A covered pixel past the right edge, an uncovered one, and a collision. -/
theorem witness_DrawTogglesTheSpriteAndReportsCollision :
    SpriteCovers drawing 62 31 1 31 5 ∧ ¬ SpriteCovers drawing 62 31 0 31 5 ∧
    (31 < 32 ∧ 62 < 64 ∧ SpriteCovers drawing 62 31 1 31 62 ∧ pixel drawing.fb 31 62 = true) ∧
    (¬ ∃ r c : Nat, r < 32 ∧ c < 64 ∧ SpriteCovers base 62 31 0 r c ∧ pixel base.fb r c = true) := by
  refine ⟨⟨0, by decide, 7, by decide, by decide, by decide, by decide⟩, ?_,
    ⟨by decide, by decide, ⟨0, by decide, 0, by decide, by decide, by decide, by decide⟩, by decide⟩, ?_⟩
  · rintro ⟨row, h, -⟩
    omega
  · rintro ⟨r, c, -, -, ⟨row, h, -⟩, -⟩
    omega

theorem witness_DrawingTwiceRestoresTheFramebuffer :
    exec (.drw 0 1 1) drawing = .next drawn ∧ SameOn drawn drawn .fb ∧ SameOn drawn drawn .index ∧ SameOn drawn drawn .mem ∧
    drawn.getV 0 = drawing.getV 0 ∧ drawn.getV 1 = drawing.getV 1 ∧
    exec (.drw 0 1 1) drawn = .next (nextOr drawn (exec (.drw 0 1 1) drawn)) :=
  ⟨rfl, rfl, rfl, fun _ => rfl, by decide, by decide, rfl⟩

/-- LD VA,0x55 at 0x200. -/
def loading : State := { base with mem := [(0x200, 0x6A), (0x201, 0x55)] }

theorem witness_StepRunsTheDecodedInstruction :
    loading.phase = .initialised ∧ loading.es = .running ∧
    decode (wordOfBytes (loading.readByte loading.pc.toNat) (loading.readByte (loading.pc.toNat + 1))) = .known (.ldImm 0xA 0x55) ∧
    loading.host = [] ∧ ({ loading with host := [.tick ⟨0, 0, 0⟩] } : State).host = .tick ⟨0, 0, 0⟩ :: [] := by decide

/-- 0x0000 at PC, both timers running and due or not at the Tick's time: the case of vector T14 with both timers. -/
def atUnknown : State := { base.placeWord 0x0000 with dt := 5, st := 2, dtRef := 0, stRef := 60, t60 := 100 }

theorem witness_TickSkipsAnUnknownWord :
    atUnknown.es = .running ∧ decode (atUnknown.sample ⟨0, 100, 0⟩).fetch = .unknown 0x0000 ∧
    atUnknown.phase = .initialised ∧
    TickBegins { atUnknown with host := [.tick ⟨0, 100, 0⟩] } (({ atUnknown with host := [] } : State).sample ⟨0, 100, 0⟩) ∧
    TickBegins { atUnknown with host := [] }
      (({ atUnknown with host := [], freeTicks := atUnknown.freeTicks + 1 } : State).sample (freeInputs atUnknown.freeTicks)) :=
  ⟨rfl, by decide, rfl, .inl ⟨_, _, rfl, rfl⟩, .inr ⟨rfl, rfl⟩⟩

/-- Vector T14, with a sound timer that is not due (R95, R118): the timers advance on an unknown word. -/
theorem test_unknownWordAdvancesTimers :
    let t := nextOr base (step { atUnknown with host := [.tick ⟨0, 100, 0⟩] })
    t.dt = 4 ∧ t.dtRef = 100 ∧ t.st = 2 ∧ t.stRef = 60 ∧ t.pc = 0x0202 ∧ t.result = .unknownOpcode 0x0000 := by decide

/-- A key wait for V3 with the given keys. -/
def waiting (keys : BitVec 16) : State := { base with es := .awaitingKey 3, inputs := ⟨keys, 0, 0⟩ }

/-- The highest key alone, all keys at once, and none; each state is what a Tick with these keys begins in. -/
theorem witness_PollTakesTheLeastPressedKey :
    (waiting 0).es = .awaitingKey 3 ∧ (waiting 0).phase = .initialised ∧
    ((waiting 0x8000).inputs.keys.getLsbD 15 = true ∧ ∀ j, j < 15 → (waiting 0x8000).inputs.keys.getLsbD j = false) ∧
    ((waiting 0xFFFF).inputs.keys.getLsbD 0 = true ∧ ∀ j, j < 0 → (waiting 0xFFFF).inputs.keys.getLsbD j = false) ∧
    (waiting 0).inputs.keys = 0 ∧
    ∀ keys, TickBegins { waiting 0 with host := [.tick ⟨keys, 0, 0⟩] } { waiting keys with host := [] } :=
  ⟨rfl, rfl, by decide, by decide, rfl, fun _ => .inl ⟨_, _, rfl, rfl⟩⟩

/-- A key wait with two Ticks without keys ahead. -/
def idling : State := { waiting 0 with host := [.tick ⟨0, 5, 1⟩, .tick ⟨0, 900, 2⟩, .init] }

theorem witness_WaitingWithoutKeysChangesNothing :
    idling.phase = .initialised ∧ idling.es = .awaitingKey 3 ∧
    idling.host = [⟨0, 5, 1⟩, ⟨0, 900, 2⟩].map Transaction.tick ++ [.init] ∧
    ∀ inp ∈ ([⟨0, 5, 1⟩, ⟨0, 900, 2⟩] : List TickInputs), inp.keys = 0 := by decide

/-- Timers at the boundaries of the clauses: due exactly now, one unit early, and at 0. -/
def timed (d : Byte) (now : Nat) : State := { base with dt := d, st := d, inputs := ⟨0, now, 0⟩ }

theorem witness_TimerAdvance :
    ((timed 1 100).dt.toNat > 0 ∧ (timed 1 100).inputs.now ≥ (timed 1 100).dtRef + (timed 1 100).t60) ∧
    ¬ ((timed 1 99).dt.toNat > 0 ∧ (timed 1 99).inputs.now ≥ (timed 1 99).dtRef + (timed 1 99).t60) ∧
    ¬ ((timed 0 100).dt.toNat > 0 ∧ (timed 0 100).inputs.now ≥ (timed 0 100).dtRef + (timed 0 100).t60) ∧
    ((timed 1 100).st.toNat > 0 ∧ (timed 1 100).inputs.now ≥ (timed 1 100).stRef + (timed 1 100).t60) ∧
    ¬ ((timed 1 99).st.toNat > 0 ∧ (timed 1 99).inputs.now ≥ (timed 1 99).stRef + (timed 1 99).t60) ∧
    ¬ ((timed 0 100).st.toNat > 0 ∧ (timed 0 100).inputs.now ≥ (timed 0 100).stRef + (timed 0 100).t60) := by decide

theorem witness_ATickTakesAtMostOneFromTheDelayTimer :
    tick ((timed 1 100).placeWord 0x1200) = .next (nextOr base (tick ((timed 1 100).placeWord 0x1200))) ∧
    (∀ x : Reg, decode ((timed 1 100).placeWord 0x1200).fetch ≠ .known (.ldDtVx x)) := by
  refine ⟨rfl, fun x => ?_⟩
  rw [show decode ((timed 1 100).placeWord 0x1200).fetch = .known (.jp 0x200) from by decide]
  intro h
  cases h

theorem witness_ErrorsArePrecise :
    base.result = .ok ∧ exec .ret base = .next (base.setResult .stackUnderflow) ∧ (base.setResult .stackUnderflow).result ≠ .ok :=
  ⟨rfl, rfl, by decide⟩

theorem witness_InitResetsFromAnyState :
    ({ base with phase := .beforeInit, host := [.init] } : State).host = .init :: [] ∧ 79 < 80 ∧ 80 ≤ 4095 ∧ 4095 < 4096 := by decide

/-- A ROM one byte longer than the ceiling: its last stored byte, and the bytes on both sides of the image. -/
theorem witness_LoadRomCopiesUpToTheCeiling :
    let rom := List.replicate 3585 (0x55 : Byte)
    let s := { base with host := [.loadRom rom] }
    s.phase = .initialised ∧ s.host = .loadRom rom :: [] ∧ 3583 < rom.length ∧ 3583 < 3584 ∧ 0x1FF < 0x200 ∧
      0x200 + [(0x55 : Byte)].length ≤ 0x201 :=
  ⟨rfl, rfl, by rw [List.length_replicate]; decide, by decide, by decide, by decide⟩

theorem witness_OnlyInitBeforeTheFirstInit :
    ({ base with phase := .beforeInit } : State).phase = .beforeInit ∧
    ∀ rest, ({ base with phase := .beforeInit } : State).host ≠ .init :: rest :=
  ⟨rfl, fun _ h => (by cases h)⟩

theorem witness_AfterInitEveryStepCompletes : State.reset.phase = .initialised := rfl

theorem witness_StepKeepsTheInvariant :
    ({ base with stack := List.replicate 16 0x0202, mem := [(0x000, 1), (0xFFF, 2)] } : State).Inv ∧
    idling.Inv ∧ step idling = .next (nextOr base (step idling)) :=
  ⟨⟨by decide, by decide, by decide⟩, ⟨by decide, by decide, by decide⟩, rfl⟩

theorem witness_OnlyCallPushesAndOnlyRetPops :
    exec (.call 0x300) base = .next ((base.setStack [0x0202]).setPc 0x0300) := rfl

theorem witness_OnlyClsAndDrwChangeTheFramebuffer :
    exec (.ldImm 0 7) base = .next (base.setV 0 7).advance ∧ Instr.ldImm 0 7 ≠ .cls ∧ ∀ x y n, Instr.ldImm 0 7 ≠ .drw x y n :=
  ⟨rfl, by decide, fun _ _ _ h => (by cases h)⟩

theorem witness_OnlyBcdAndBulkStoreWriteMemory :
    exec .cls base = .next (base.setFb blankFb).advance ∧ (∀ x, Instr.cls ≠ .ldBcd x) ∧ ∀ x, Instr.cls ≠ .storeRegs x :=
  ⟨rfl, fun _ h => (by cases h), fun _ h => (by cases h)⟩

theorem witness_OnlyTheirInstructionsWriteIndexTimersAndWait :
    exec .cls base = .next (base.setFb blankFb).advance ∧ (∀ n, Instr.cls ≠ .ldIndex n) ∧ (∀ x, Instr.cls ≠ .addIndex x) ∧
    (∀ x, Instr.cls ≠ .ldFont x) ∧ (∀ x, Instr.cls ≠ .ldDtVx x) ∧ (∀ x, Instr.cls ≠ .ldStVx x) ∧ ∀ x, Instr.cls ≠ .ldVxKey x :=
  ⟨rfl, fun _ h => (by cases h), fun _ h => (by cases h), fun _ h => (by cases h), fun _ h => (by cases h), fun _ h => (by cases h),
    fun _ h => (by cases h)⟩

theorem witness_OnlySixInstructionsWriteVfAsASideEffect :
    exec (.shr 1 0) (regs [(1, 1)]) = .next (nextOr base (exec (.shr 1 0) (regs [(1, 1)]))) ∧
    (nextOr base (exec (.shr 1 0) (regs [(1, 1)]))).getV 0xF ≠ (regs [(1, 1)]).getV 0xF :=
  ⟨rfl, by decide⟩

theorem witness_InputsReachOnlyTheirInstructions :
    exec .cls base = .next (base.setFb blankFb).advance ∧ (∀ x kk, Instr.cls ≠ .rnd x kk) ∧ (∀ x, Instr.cls ≠ .skp x) ∧
    (∀ x, Instr.cls ≠ .sknp x) ∧ (∀ x, Instr.cls ≠ .ldDtVx x) ∧ ∀ x, Instr.cls ≠ .ldStVx x :=
  ⟨rfl, fun _ _ h => (by cases h), fun _ h => (by cases h), fun _ h => (by cases h), fun _ h => (by cases h), fun _ h => (by cases h)⟩

theorem witness_SoundTimerIsUnobservable :
    core.run 1 { loading with st := 3, host := [.tick ⟨0, 500, 0⟩] } =
      .next (nextOr base (core.run 1 { loading with st := 3, host := [.tick ⟨0, 500, 0⟩] })) := rfl

theorem witness_IdleDelayReferenceIsUnobservable :
    loading.dt = 0 ∧ tick loading = .next (nextOr base (tick loading)) := ⟨rfl, rfl⟩

theorem witness_ResultIsAnOutputOnly :
    (∀ rest, loading.host ≠ .init :: rest) ∧ ∀ rom rest, loading.host ≠ .loadRom rom :: rest :=
  ⟨fun _ h => (by cases h), fun _ _ h => (by cases h)⟩

/-- JP 0x200 at PC 0x1200, which fetches from 0x200. -/
theorem witness_AnEndedRunStaysEnded : ({ base with pc := 0x1200, mem := [(0x200, 0x12), (0x201, 0x00)] } : State).Ended :=
  ⟨rfl, 0x200, by decide, by decide⟩

end Sys2Proof.Tests
end

section
/-! ## The fetch (R52, R53, R99) -/

namespace Sys2Proof.Machine

/-- The reduction is idempotent (R52). -/
@[simp] theorem a12_a12 (a : Nat) : a12 (a12 a) = a12 a := Nat.mod_mod a Config.memSize

/-- A read reduces its address, so an address and its reduction name the same byte (R52). -/
@[simp] theorem State.readByte_a12 (s : State) (a : Nat) : s.readByte (a12 a) = s.readByte a := by
  simp only [State.readByte, a12_a12]

/-- Settles O38: `wordOfBytes` puts the byte at PC above the byte after it, and each read reduces its own address. -/
theorem fetchIsBigEndianAtReducedAddresses : Obligations.FetchIsBigEndianAtReducedAddresses := by
  unfold Obligations.FetchIsBigEndianAtReducedAddresses
  intro s
  calc s.fetch.toNat
      = (s.readByte s.pc.toNat).toNat * 256 + (s.readByte (s.pc.toNat + 1)).toNat := wordOfBytes_toNat _ _
    _ = (s.readByte (a12 s.pc.toNat)).toNat * 256 + (s.readByte (a12 (s.pc.toNat + 1))).toNat := by
      rw [State.readByte_a12, State.readByte_a12]

end Sys2Proof.Machine
end

section
/-! ## Jumps and immediate skips (R25, R111, R113, R114, R117) -/

namespace Sys2Proof.Machine

/-! ### What the arms of `exec` answer -/

theorem exec_jp (nnn : Addr12) (s : State) : exec (.jp nnn) s = .next (s.setPc (addrWord nnn)) := rfl

theorem exec_jpV0 (nnn : Addr12) (s : State) :
    exec (.jpV0 nnn) s = .next (s.setPc (byteWord (s.getV 0) + addrWord nnn)) := rfl

theorem exec_seImm (x : Reg) (kk : Byte) (s : State) :
    exec (.seImm x kk) s = .next (s.skipIf (decide (s.getV x = kk))) := rfl

/-- SNE is the skip of SE on the negated condition. -/
theorem exec_sneImm (x : Reg) (kk : Byte) (s : State) :
    exec (.sneImm x kk) s = .next (s.skipIf (decide (s.getV x ≠ kk))) := by
  rw [decide_not]; rfl

/-! ### Jumps -/

/-- A write of PC changes nothing else. -/
theorem State.setPc_onlyChanges (s : State) (a : Word) : OnlyChanges s (s.setPc a) [.pc] := by
  intro c hc
  cases c <;> simp_all [SameOn]

@[simp] theorem addrWord_toNat (nnn : Addr12) : (addrWord nnn).toNat = nnn.toNat :=
  BitVec.toNat_setWidth_of_le (by decide)

@[simp] theorem byteWord_toNat (b : Byte) : (byteWord b).toNat = b.toNat :=
  BitVec.toNat_setWidth_of_le (by decide)

/-- A byte and a 12-bit address sum to less than 65536, so their sum in PC keeps its 13th bit and never wraps (R117). -/
theorem byteWord_add_addrWord_toNat (b : Byte) (nnn : Addr12) :
    (byteWord b + addrWord nnn).toNat = b.toNat + nnn.toNat := by
  have hb := b.isLt
  have hn := nnn.isLt
  rw [BitVec.toNat_add, byteWord_toNat, addrWord_toNat]
  omega

/-- Settles O9: both jumps are one write of PC, and the sum of JP V0 fits in its 16 bits. -/
theorem jumpsSetPc : Obligations.JumpsSetPc := by
  unfold Obligations.JumpsSetPc
  intro s nnn
  exact ⟨⟨_, exec_jp nnn s, addrWord_toNat nnn, s.setPc_onlyChanges _⟩,
    ⟨_, exec_jpV0 nnn s, byteWord_add_addrWord_toNat (s.getV 0) nnn, s.setPc_onlyChanges _⟩⟩

/-! ### Skips -/

/-- An instruction that answers the skip on `p` moves PC by 4 when `p` holds, else by 2, and changes nothing else (R25). -/
theorem skip_of_exec_eq {i : Instr} {s : State} (p : Prop) [Decidable p]
    (h : exec i s = .next (s.skipIf (decide p))) :
    ∃ t, exec i s = .next t ∧ OnlyChanges s t [.pc] ∧ PcMoved s t (if p then 4 else 2) := by
  obtain ⟨hmoved, honly⟩ := s.skipIf_spec (decide p)
  exact ⟨_, h, honly, by simpa only [decide_eq_true_eq] using hmoved⟩

/-- Settles O12: SE and SNE are skips on the equality and on its negation. -/
theorem immediateSkips : Obligations.ImmediateSkips := by
  unfold Obligations.ImmediateSkips
  intro s x kk
  exact ⟨skip_of_exec_eq _ (exec_seImm x kk s), skip_of_exec_eq _ (exec_sneImm x kk s)⟩

end Sys2Proof.Machine
end

section
/-! ## Loads, immediate addition and logic (R122 to R127) -/

namespace Sys2Proof.Machine

/-! ### What the arms of `exec` answer -/

theorem exec_ldImm (x : Reg) (kk : Byte) (s : State) : exec (.ldImm x kk) s = .next (s.setV x kk).advance := rfl

theorem exec_ldReg (x y : Reg) (s : State) : exec (.ldReg x y) s = .next (s.setV x (s.getV y)).advance := rfl

theorem exec_addImm (x : Reg) (kk : Byte) (s : State) :
    exec (.addImm x kk) s = .next (s.setV x (sumByte (s.getV x) kk)).advance := rfl

theorem exec_orReg (x y : Reg) (s : State) :
    exec (.orReg x y) s = .next (s.setV x (s.getV x ||| s.getV y)).advance := rfl

theorem exec_andReg (x y : Reg) (s : State) :
    exec (.andReg x y) s = .next (s.setV x (s.getV x &&& s.getV y)).advance := rfl

theorem exec_xorReg (x y : Reg) (s : State) :
    exec (.xorReg x y) s = .next (s.setV x (s.getV x ^^^ s.getV y)).advance := rfl

/-! ### The write of one register and the advance -/

theorem State.getV_advance_setV_same (s : State) (x : Reg) (b : Byte) : (s.setV x b).advance.getV x = b := by
  rw [State.advance_getV, State.getV_setV_same]

/-- The frame of every instruction that writes Vx and no flag: VF keeps its value unless it is Vx itself (R122 to R127). -/
theorem State.advance_setV_frame (s : State) (x : Reg) (b : Byte) :
    OnlyRegs s (s.setV x b).advance [x] ∧ PcMoved s (s.setV x b).advance 2 ∧
      OnlyChanges s (s.setV x b).advance [.v, .pc] := by
  refine ⟨fun r hr => ?_, State.advance_pcMoved s _ (s.setV_pc x b), fun c hc => ?_⟩
  · rw [State.advance_getV, State.getV_setV_other s b (List.ne_of_not_mem_cons hr)]
  · cases c <;> simp_all [SameOn]

/-! ### The obligations -/

/-- Settles O14: both loads are one write of a register and the advance. -/
theorem registerLoads : Obligations.RegisterLoads := by
  unfold Obligations.RegisterLoads
  intro s x y kk
  exact ⟨⟨_, exec_ldImm x kk s, s.getV_advance_setV_same x kk, s.advance_setV_frame x kk⟩,
    ⟨_, exec_ldReg x y s, s.getV_advance_setV_same x (s.getV y), s.advance_setV_frame x (s.getV y)⟩⟩

/-- Settles O15: the one register written gets the sum modulo 256. -/
theorem addImmediateWrapsWithoutFlag : Obligations.AddImmediateWrapsWithoutFlag := by
  unfold Obligations.AddImmediateWrapsWithoutFlag
  intro s x kk
  refine ⟨_, exec_addImm x kk s, ?_, s.advance_setV_frame x _⟩
  rw [State.getV_advance_setV_same, sumByte_toNat]

/-- Settles O16: the one register written gets the bit vector operation, which works on each bit alone. -/
theorem logicWorksBitByBitWithoutFlag : Obligations.LogicWorksBitByBitWithoutFlag := by
  unfold Obligations.LogicWorksBitByBitWithoutFlag
  intro s x y
  refine ⟨⟨_, exec_orReg x y s, fun k _ => ?_, s.advance_setV_frame x _⟩,
    ⟨_, exec_andReg x y s, fun k _ => ?_, s.advance_setV_frame x _⟩,
    ⟨_, exec_xorReg x y s, fun k _ => ?_, s.advance_setV_frame x _⟩⟩
  · rw [State.getV_advance_setV_same, BitVec.getLsbD_or]
  · rw [State.getV_advance_setV_same, BitVec.getLsbD_and]
  · rw [State.getV_advance_setV_same, BitVec.getLsbD_xor]

end Sys2Proof.Machine
end

section
/-! ## The index register (R140) -/

namespace Sys2Proof.Machine

theorem exec_ldIndex (nnn : Addr12) (s : State) :
    exec (.ldIndex nnn) s = .next (s.setIndex (addrWord nnn)).advance := rfl

/-- The new I survives the advance, which writes PC alone. -/
theorem State.index_advance_setIndex (s : State) (a : Word) : (s.setIndex a).advance.index = a := by
  rw [State.advance_index, State.setIndex_index]

/-- The frame of every instruction whose one write before the advance is that of I. -/
theorem State.advance_setIndex_frame (s : State) (a : Word) :
    PcMoved s (s.setIndex a).advance 2 ∧ OnlyChanges s (s.setIndex a).advance [.index, .pc] := by
  refine ⟨State.advance_pcMoved s _ (s.setIndex_pc a), fun c hc => ?_⟩
  cases c <;> simp_all [SameOn]

/-- Settles O21: the instruction is one write of I and the advance, and the extension to 16 bits keeps the number. -/
theorem loadIndex : Obligations.LoadIndex := by
  unfold Obligations.LoadIndex
  intro s nnn
  refine ⟨_, exec_ldIndex nnn s, ?_, s.advance_setIndex_frame _⟩
  rw [State.index_advance_setIndex, addrWord_toNat]

end Sys2Proof.Machine
end

section
/-! ## The blank screen (R150) -/

namespace Sys2Proof.Machine

theorem exec_cls (s : State) : exec .cls s = .next (s.setFb blankFb).advance := rfl

@[simp] theorem pixel_blankFb (r c : Nat) : pixel blankFb r c = false := by
  simp only [pixel, blankFb, Vector.getElem_replicate]

/-- The frame of an instruction whose one write before the advance is that of the framebuffer: no register is written. -/
theorem State.advance_setFb_frame (s : State) (f : Framebuffer) :
    PcMoved s (s.setFb f).advance 2 ∧ OnlyChanges s (s.setFb f).advance [.fb, .pc] := by
  refine ⟨State.advance_pcMoved s _ (s.setFb_pc f), fun c hc => ?_⟩
  cases c <;> simp_all [SameOn]

/-- Settles O29: the framebuffer written is blank, and the advance keeps it. -/
theorem clearScreenBlanksEveryPixel : Obligations.ClearScreenBlanksEveryPixel := by
  unfold Obligations.ClearScreenBlanksEveryPixel
  intro s
  refine ⟨_, exec_cls s, fun r c => ?_, s.advance_setFb_frame blankFb⟩
  rw [State.advance_fb, State.setFb_fb, pixel_blankFb]

end Sys2Proof.Machine
end

section
/-! ## The key wait (R162) -/

namespace Sys2Proof.Machine

theorem exec_ldVxKey (x : Reg) (s : State) :
    exec (.ldVxKey x) s = .next (s.setEs (.awaitingKey x)).advance := rfl

/-- The new execution state survives the advance, which writes PC alone. -/
theorem State.es_advance_setEs (s : State) (e : ExecState) : (s.setEs e).advance.es = e := by
  rw [State.advance_es, State.setEs_es]

/-- The frame of an instruction whose one write before the advance is that of the execution state: no register is written. -/
theorem State.advance_setEs_frame (s : State) (e : ExecState) :
    PcMoved s (s.setEs e).advance 2 ∧ OnlyChanges s (s.setEs e).advance [.es, .pc] := by
  refine ⟨State.advance_pcMoved s _ (s.setEs_pc e), fun c hc => ?_⟩
  cases c <;> simp_all [SameOn]

/-- Settles O33: the instruction is one write of the execution state and the advance, and reads no key. -/
theorem awaitKeyEntersTheWait : Obligations.AwaitKeyEntersTheWait := by
  unfold Obligations.AwaitKeyEntersTheWait
  intro s x
  exact ⟨_, exec_ldVxKey x s, s.es_advance_setEs _, s.advance_setEs_frame _⟩

end Sys2Proof.Machine
end

section
/-! ## Encoder and decoder (R71 to R78) -/

namespace Sys2Proof

/-! ### The fields of the three formats, and the formats put together from the fields -/

@[simp] theorem opField_encodeXY (op : BitVec 4) (x y : Reg) (fn : BitVec 4) : opField (encodeXY op x y fn) = op := by
  apply BitVec.eq_of_toNat_eq
  rw [opField_toNat, encodeXY_toNat]
  have := x.isLt; have := y.isLt; have := fn.isLt
  omega

@[simp] theorem xField_encodeXY (op : BitVec 4) (x y : Reg) (fn : BitVec 4) : xField (encodeXY op x y fn) = x := by
  apply BitVec.eq_of_toNat_eq
  rw [xField_toNat, encodeXY_toNat]
  have := x.isLt; have := y.isLt; have := fn.isLt
  omega

@[simp] theorem yField_encodeXY (op : BitVec 4) (x y : Reg) (fn : BitVec 4) : yField (encodeXY op x y fn) = y := by
  apply BitVec.eq_of_toNat_eq
  rw [yField_toNat, encodeXY_toNat]
  have := y.isLt; have := fn.isLt
  omega

@[simp] theorem nField_encodeXY (op : BitVec 4) (x y : Reg) (fn : BitVec 4) : nField (encodeXY op x y fn) = fn := by
  apply BitVec.eq_of_toNat_eq
  rw [nField_toNat, encodeXY_toNat]
  have := fn.isLt
  omega

@[simp] theorem opField_encodeXK (op : BitVec 4) (x : Reg) (kk : Byte) : opField (encodeXK op x kk) = op := by
  apply BitVec.eq_of_toNat_eq
  rw [opField_toNat, encodeXK_toNat]
  have := x.isLt; have := kk.isLt
  omega

@[simp] theorem xField_encodeXK (op : BitVec 4) (x : Reg) (kk : Byte) : xField (encodeXK op x kk) = x := by
  apply BitVec.eq_of_toNat_eq
  rw [xField_toNat, encodeXK_toNat]
  have := x.isLt; have := kk.isLt
  omega

@[simp] theorem kkField_encodeXK (op : BitVec 4) (x : Reg) (kk : Byte) : kkField (encodeXK op x kk) = kk := by
  apply BitVec.eq_of_toNat_eq
  rw [kkField_toNat, encodeXK_toNat]
  have := kk.isLt
  omega

@[simp] theorem opField_encodeA (op : BitVec 4) (nnn : Addr12) : opField (encodeA op nnn) = op := by
  apply BitVec.eq_of_toNat_eq
  rw [opField_toNat, encodeA_toNat]
  have := nnn.isLt
  omega

@[simp] theorem nnnField_encodeA (op : BitVec 4) (nnn : Addr12) : nnnField (encodeA op nnn) = nnn := by
  apply BitVec.eq_of_toNat_eq
  rw [nnnField_toNat, encodeA_toNat]
  have := nnn.isLt
  omega

theorem encodeXY_fields (w : Word) : encodeXY (opField w) (xField w) (yField w) (nField w) = w := by
  apply BitVec.eq_of_toNat_eq
  rw [encodeXY_toNat, opField_toNat, xField_toNat, yField_toNat, nField_toNat]
  omega

theorem encodeXK_fields (w : Word) : encodeXK (opField w) (xField w) (kkField w) = w := by
  apply BitVec.eq_of_toNat_eq
  rw [encodeXK_toNat, opField_toNat, xField_toNat, kkField_toNat]
  omega

theorem encodeA_fields (w : Word) : encodeA (opField w) (nnnField w) = w := by
  apply BitVec.eq_of_toNat_eq
  rw [encodeA_toNat, opField_toNat, nnnField_toNat]
  omega

/-! ### The round trip (R72, R75) -/

/-- Settles O1: the decoder switches on fields of the word, and the encoder put each operand into its field. -/
theorem decodeOfEncodeIsTheInstruction : Obligations.DecodeOfEncodeIsTheInstruction := by
  unfold Obligations.DecodeOfEncodeIsTheInstruction
  intro i
  cases i
  case cls => decide
  case ret => decide
  all_goals simp [encode, decode, decodeFamily8, decodeFamilyE, decodeFamilyF]

/-! ### What the decoder can answer -/

/-- The words of R77, family by family, in their fields. -/
def UnknownFields (w : Word) : Prop :=
  (opField w = 0 ∧ w ≠ 0x00E0 ∧ w ≠ 0x00EE) ∨
  (opField w = 5 ∧ nField w ≠ 0) ∨
  (opField w = 8 ∧ nField w ∉ ([0, 1, 2, 3, 4, 5, 6, 7, 14] : List (BitVec 4))) ∨
  (opField w = 9 ∧ nField w ≠ 0) ∨
  (opField w = 14 ∧ kkField w ∉ ([0x9E, 0xA1] : List Byte)) ∨
  (opField w = 15 ∧ kkField w ∉ ([0x07, 0x0A, 0x15, 0x18, 0x1E, 0x29, 0x33, 0x55, 0x65] : List Byte))

/-- A right answer of the decoder to the word `w`: an instruction with that word, or the marker with `w` for a word of R77. -/
def Answers (w : Word) (d : Decoded) : Prop :=
  (∃ i, d = .known i ∧ encode i = w) ∨ (d = .unknown w ∧ UnknownFields w)

theorem Answers.known {w : Word} {i : Instr} (h : encode i = w) : Answers w (.known i) := .inl ⟨i, rfl, h⟩

theorem Answers.unknown {w : Word} (h : UnknownFields w) : Answers w (.unknown w) := .inr ⟨rfl, h⟩

theorem decodeFamily0_answers {w : Word} (hop : opField w = 0) : Answers w (decodeFamily0 w) := by
  unfold decodeFamily0
  split
  next hcls => exact .known hcls.symm
  next hcls =>
    split
    next hret => exact .known hret.symm
    next hret => exact .unknown (.inl ⟨hop, hcls, hret⟩)

theorem decodeFamily8_answers {w : Word} (hop : opField w = 8) : Answers w (decodeFamily8 w) := by
  have hw := encodeXY_fields w
  unfold decodeFamily8
  split
  case h_10 => exact .unknown (by simp [UnknownFields, hop]; and_intros <;> assumption)
  all_goals
    rename_i hn
    rw [hop, hn] at hw
    exact .known hw

theorem decodeFamilyE_answers {w : Word} (hop : opField w = 14) : Answers w (decodeFamilyE w) := by
  have hw := encodeXK_fields w
  unfold decodeFamilyE
  split
  case h_3 => exact .unknown (by simp [UnknownFields, hop]; and_intros <;> assumption)
  all_goals
    rename_i hkk
    rw [hop, hkk] at hw
    exact .known hw

theorem decodeFamilyF_answers {w : Word} (hop : opField w = 15) : Answers w (decodeFamilyF w) := by
  have hw := encodeXK_fields w
  unfold decodeFamilyF
  split
  case h_10 => exact .unknown (by simp [UnknownFields, hop]; and_intros <;> assumption)
  all_goals
    rename_i hkk
    rw [hop, hkk] at hw
    exact .known hw

/-- SE Vx,Vy and SNE Vx,Vy, the two instructions whose low nibble must be 0 (R76). -/
theorem answers_ite_nField_eq_zero {w : Word} {i : Instr} (hop : opField w = 5 ∨ opField w = 9)
    (hi : encode i = encodeXY (opField w) (xField w) (yField w) 0) :
    Answers w (if nField w = 0 then .known i else .unknown w) := by
  split
  next hn =>
    rw [← hn, encodeXY_fields] at hi
    exact .known hi
  next hn => exact .unknown (hop.elim (fun hseReg => .inr (.inl ⟨hseReg, hn⟩))
      fun hsneReg => .inr (.inr (.inr (.inl ⟨hsneReg, hn⟩))))

/-- The inversion of the decoder: whichever arm answers, the answer is right. -/
theorem decode_answers (w : Word) : Answers w (decode w) := by
  have hA := encodeA_fields w
  have hXK := encodeXK_fields w
  have hXY := encodeXY_fields w
  unfold decode
  split
  case h_1 hop => exact decodeFamily0_answers hop
  case h_6 hop => exact answers_ite_nField_eq_zero (.inl hop) (by rw [hop]; rfl)
  case h_9 hop => exact decodeFamily8_answers hop
  case h_10 hop => exact answers_ite_nField_eq_zero (.inr hop) (by rw [hop]; rfl)
  case h_15 hop => exact decodeFamilyE_answers hop
  case h_16 =>
    refine decodeFamilyF_answers ?_
    simp only [imp_false] at *
    bv_omega
  all_goals
    rename_i hop
    rw [hop] at hA hXK hXY
    exact .known (by assumption)

/-- Settles O2: whichever arm of the decoder answers with an instruction, the fields it read make up the word. -/
theorem encodeOfDecodeIsTheWord : Obligations.EncodeOfDecodeIsTheWord := by
  unfold Obligations.EncodeOfDecodeIsTheWord
  intro w i h
  rcases decode_answers w with ⟨j, hj, hw⟩ | ⟨hu, -⟩
  · cases hj.symm.trans h
    exact hw
  · cases hu.symm.trans h

/-! ### The unknown words (R77) -/

theorem not_unknownFields_encode (i : Instr) : ¬ UnknownFields (encode i) := by
  cases i
  case cls => unfold UnknownFields; decide
  case ret => unfold UnknownFields; decide
  all_goals simp [UnknownFields, encode]
theorem decode_eq_unknown_iff (w : Word) : decode w = .unknown w ↔ UnknownFields w := by
  rcases decode_answers w with ⟨i, hd, rfl⟩ | ⟨hd, hu⟩
  · simp [hd, not_unknownFields_encode]
  · simp [hd, hu]

theorem opField_eq_iff (w : Word) (k : BitVec 4) : opField w = k ↔ w.toNat / 4096 = k.toNat := by
  rw [← BitVec.toNat_inj, opField_toNat]

theorem nField_eq_iff (w : Word) (k : BitVec 4) : nField w = k ↔ w.toNat % 16 = k.toNat := by
  rw [← BitVec.toNat_inj, nField_toNat]

theorem kkField_eq_iff (w : Word) (k : Byte) : kkField w = k ↔ w.toNat % 256 = k.toNat := by
  rw [← BitVec.toNat_inj, kkField_toNat]

/-- Settles O5: the fields of R77's sets as numbers of the word; family 8 names the unknown nibbles, not the known ones. -/
theorem unknownWordsByFamily : Obligations.UnknownWordsByFamily := by
  unfold Obligations.UnknownWordsByFamily
  intro w
  have hfamily8 : w.toNat % 16 ∈ [8, 9, 10, 11, 12, 13, 15] ↔ w.toNat % 16 ∉ [0, 1, 2, 3, 4, 5, 6, 7, 14] := by
    simp only [List.mem_cons, List.not_mem_nil, or_false]
    omega
  rw [decode_eq_unknown_iff, hfamily8]
  simp [UnknownFields, opField_eq_iff, nField_eq_iff, kkField_eq_iff]

/-! ### The opcode table (R75) -/

theorem row_mem_opcodeTable (i : Instr) : i.row ∈ opcodeTable := by
  cases i <;> dsimp only [Instr.row] <;> decide

open Laws.EncodingFits in
theorem row_covers_encode (i : Instr) : i.row.covers (encode i) = true :=
  i.rec (motive := Statement) cls ret jp call seImm sneImm seReg ldImm addImm ldReg orReg andReg xorReg addReg subReg
    shr subnReg shl sneReg ldIndex jpV0 rnd drw skp sknp ldVxDt ldVxKey ldDtVx ldStVx addIndex ldFont ldBcd storeRegs
    loadRegs

/-- A row whose family nibble alone is fixed. -/
theorem covers_family_iff (p w : Word) :
    OpcodeRow.covers ⟨0xF000#16, p⟩ w = true ↔ w.toNat / 4096 * 4096 = p.toNat := by
  have hw := Laws.encodeA_family (opField w) (nnnField w)
  rw [encodeA_fields, BitVec.ofNat_eq_ofNat] at hw
  simp [OpcodeRow.covers, hw, ← BitVec.toNat_inj, encodeA_toNat, opField_toNat]

/-- A row whose family and function nibbles are fixed. -/
theorem covers_nibble_iff (p w : Word) :
    OpcodeRow.covers ⟨0xF00F#16, p⟩ w = true ↔ w.toNat / 4096 * 4096 + w.toNat % 16 = p.toNat := by
  have hw := Laws.encodeXY_masked (opField w) (xField w) (yField w) (nField w)
  rw [encodeXY_fields, BitVec.ofNat_eq_ofNat] at hw
  simp [OpcodeRow.covers, hw, ← BitVec.toNat_inj, encodeXY_toNat, opField_toNat, nField_toNat]

/-- A row whose family nibble and function byte are fixed. -/
theorem covers_byte_iff (p w : Word) :
    OpcodeRow.covers ⟨0xF0FF#16, p⟩ w = true ↔ w.toNat / 4096 * 4096 + w.toNat % 256 = p.toNat := by
  have hw := Laws.encodeXK_masked (opField w) (xField w) (kkField w)
  rw [encodeXK_fields, BitVec.ofNat_eq_ofNat] at hw
  simp [OpcodeRow.covers, hw, ← BitVec.toNat_inj, encodeXK_toNat, opField_toNat, kkField_toNat]

/-- A row that is one word. -/
theorem covers_word_iff (p w : Word) : OpcodeRow.covers ⟨0xFFFF#16, p⟩ w = true ↔ w.toNat = p.toNat := by
  rw [OpcodeRow.covers, beq_iff_eq, show 0xFFFF#16 = BitVec.allOnes 16 from rfl, BitVec.and_allOnes, BitVec.toNat_inj]

/-- No row covers a word of R77. -/
theorem not_wordWellFormed_of_unknownFields {w : Word} (h : UnknownFields w) : ¬ wordWellFormed w = true := by
  intro hwf
  simp [UnknownFields, ← BitVec.toNat_inj, opField_toNat, nField_toNat, kkField_toNat] at h
  simp [wordWellFormed, opcodeTable, opcodeRowsLow, opcodeRowsAlu, opcodeRowsMid, opcodeRowsHigh, covers_family_iff,
    covers_nibble_iff, covers_byte_iff, covers_word_iff] at hwf
  omega

/-- Settles O3: an instruction's own row covers its word, and no row covers a word of R77. -/
theorem decodesIffARowCoversTheWord : Obligations.DecodesIffARowCoversTheWord := by
  unfold Obligations.DecodesIffARowCoversTheWord
  intro w
  rcases decode_answers w with ⟨i, hd, rfl⟩ | ⟨hd, hu⟩
  · have hwf : wordWellFormed (encode i) = true :=
      List.any_eq_true.2 ⟨i.row, row_mem_opcodeTable i, row_covers_encode i⟩
    exact ⟨fun _ => ⟨i, hd, row_mem_opcodeTable i, row_covers_encode i⟩, fun h => by simp [hwf] at h⟩
  · exact ⟨fun h => absurd h (not_wordWellFormed_of_unknownFields hu), fun _ => hd⟩

/-- Any two rows ask for different values of a bit that both fix. -/
theorem opcodeTable_pairwise : opcodeTable.Pairwise fun r q => r.pattern &&& q.mask ≠ q.pattern &&& r.mask := by
  decide

/-- Two rows that cover one word ask for the same values of the bits that both fix: those of the word. -/
theorem covers_patterns_agree {r q : OpcodeRow} {w : Word} (hr : r.covers w = true) (hq : q.covers w = true) :
    r.pattern &&& q.mask = q.pattern &&& r.mask := by
  rw [OpcodeRow.covers, beq_iff_eq] at hr hq
  rw [← hr, ← hq, BitVec.and_assoc, BitVec.and_assoc, BitVec.and_comm r.mask]

/-- Settles O4: two rows that cover a word agree on the bits that both fix, and no two rows of the table do. -/
theorem noTwoRowsCoverAWord : Obligations.NoTwoRowsCoverAWord := by
  unfold Obligations.NoTwoRowsCoverAWord
  intro w m n hm hn hcm hcn
  have hpair := List.pairwise_iff_getElem.1 opcodeTable_pairwise
  rcases Nat.lt_trichotomy m n with h | h | h
  · exact absurd (covers_patterns_agree hcm hcn) (hpair m n hm hn h)
  · exact h
  · exact absurd (covers_patterns_agree hcn hcm) (hpair n m hn hm h)

/-! ### The decoding procedure (R78) -/

/-- Settles O6: the numbers of the statement are the fields of the word, and the decoder switches on those fields. -/
theorem everyRowOfTheTableDecodes : Obligations.EveryRowOfTheTableDecodes := by
  unfold Obligations.EveryRowOfTheTableDecodes
  intro w op x y n kk nnn
  have hx : x = xField w := by simp [x, ← BitVec.toNat_inj, xField_toNat]
  have hy : y = yField w := by simp [y, ← BitVec.toNat_inj, yField_toNat]
  have hn : n = nField w := by simp [n, ← BitVec.toNat_inj, nField_toNat]
  have hkk : kk = kkField w := by simp [kk, ← BitVec.toNat_inj, kkField_toNat]
  have hnnn : nnn = nnnField w := by simp [nnn, ← BitVec.toNat_inj, nnnField_toNat]
  have hop : op = (opField w).toNat := (opField_toNat w).symm
  rw [hx, hy, hn, hkk, hnnn, hop]
  simp only [BitVec.toNat_eq_nat]
  refine ⟨fun h => h ▸ rfl, fun h => h ▸ rfl, ?_⟩
  and_intros
  all_goals
    rintro ⟨-, hop⟩
    intros
    simp [decode, decodeFamily8, decodeFamilyE, decodeFamilyF, *]

/-- Settles O7: the decoder evaluated on each word. -/
theorem writtenOutWordsDecode : Obligations.WrittenOutWordsDecode := by
  unfold Obligations.WrittenOutWordsDecode
  decide

end Sys2Proof
end

section
/-! ## Frames: the components that an operation leaves alone, one after the other -/

namespace Sys2Proof.Machine

theorem SameOn.refl (s : State) (c : Component) : SameOn s s c := by
  cases c <;> simp [SameOn]

theorem SameOn.trans {s t u : State} {c : Component} (h₁ : SameOn s t c) (h₂ : SameOn t u c) : SameOn s u c := by
  cases c <;> simp_all [SameOn]

theorem OnlyChanges.refl (s : State) (cs : List Component) : OnlyChanges s s cs := fun c _ => SameOn.refl s c

theorem OnlyChanges.mono {s t : State} {cs ds : List Component} (h : OnlyChanges s t cs) (hsub : cs ⊆ ds) :
    OnlyChanges s t ds := fun c hc => h c fun hmem => hc (hsub hmem)

theorem OnlyChanges.trans {s t u : State} {cs ds : List Component} (h₁ : OnlyChanges s t cs) (h₂ : OnlyChanges t u ds) :
    OnlyChanges s u (cs ++ ds) := fun c hc =>
  (h₁ c fun hmem => hc (List.mem_append_left ds hmem)).trans (h₂ c fun hmem => hc (List.mem_append_right cs hmem))

theorem OnlyChanges.advance {s t : State} {cs : List Component} (h : OnlyChanges s t cs) :
    OnlyChanges s t.advance (cs ++ [.pc]) := h.trans (t.setPc_onlyChanges _)

/-- The frame of an instruction that ends with the advance, from the frame of what it does before (R25). -/
theorem OnlyChanges.advance_frame {s t : State} {cs : List Component} (h : OnlyChanges s t cs)
    (hpc : Component.pc ∉ cs) : PcMoved s t.advance 2 ∧ OnlyChanges s t.advance (cs ++ [.pc]) :=
  ⟨State.advance_pcMoved s t (h .pc hpc), h.advance⟩

theorem State.setV_onlyChanges (s : State) (x : Reg) (b : Byte) : OnlyChanges s (s.setV x b) [.v] := by
  intro c hc
  cases c <;> simp_all [SameOn]

theorem State.setIndex_onlyChanges (s : State) (a : Word) : OnlyChanges s (s.setIndex a) [.index] := by
  intro c hc
  cases c <;> simp_all [SameOn]

theorem State.setStack_onlyChanges (s : State) (l : List Word) : OnlyChanges s (s.setStack l) [.stack] := by
  intro c hc
  cases c <;> simp_all [SameOn]

theorem State.setDelay_onlyChanges (s : State) (b : Byte) (n : Nat) : OnlyChanges s (s.setDelay b n) [.delay] := by
  intro c hc
  cases c <;> simp_all [SameOn]

theorem State.setSound_onlyChanges (s : State) (b : Byte) (n : Nat) : OnlyChanges s (s.setSound b n) [.sound] := by
  intro c hc
  cases c <;> simp_all [SameOn]

theorem State.setEs_onlyChanges (s : State) (e : ExecState) : OnlyChanges s (s.setEs e) [.es] := by
  intro c hc
  cases c <;> simp_all [SameOn]

theorem State.setFb_onlyChanges (s : State) (f : Framebuffer) : OnlyChanges s (s.setFb f) [.fb] := by
  intro c hc
  cases c <;> simp_all [SameOn]

theorem State.setResult_onlyChanges (s : State) (r : TickResult) : OnlyChanges s (s.setResult r) [.result] := by
  intro c hc
  cases c <;> simp_all [SameOn]

theorem State.writeByte_onlyChanges (s : State) (a : Nat) (b : Byte) : OnlyChanges s (s.writeByte a b) [.mem] := by
  intro c hc
  cases c <;> simp_all [SameOn]

end Sys2Proof.Machine
end

section
/-! ## Call and return (R110, R112, R172 to R174) -/

namespace Sys2Proof.Machine

/-- What RET answers, by whether the stack has an entry. -/
theorem exec_ret_cases (s : State) :
    (s.stack = [] ∧ exec .ret s = .next (s.setResult .stackUnderflow)) ∨
      ∃ l a, s.stack = l ++ [a] ∧ exec .ret s = .next ((s.setStack l).setPc a) :=
  s.pop_cases fun a t => .next (t.setPc a)

theorem exec_ret_of_top {s : State} {l : List Word} {a : Word} (h : s.stack = l ++ [a]) :
    exec .ret s = .next ((s.setStack l).setPc a) :=
  s.pop_top (fun a t => .next (t.setPc a)) l a h

theorem exec_ret_of_empty {s : State} (h : s.stack = []) : exec .ret s = .next (s.setResult .stackUnderflow) :=
  s.pop_empty (fun a t => .next (t.setPc a)) h

/-- What CALL answers, by whether the stack is full. -/
theorem exec_call_cases (nnn : Addr12) (s : State) :
    (s.stack.length = Config.stackDepth ∧ exec (.call nnn) s = .next (s.setResult .stackOverflow)) ∨
      (s.stack.length ≠ Config.stackDepth ∧
        exec (.call nnn) s = .next ((s.setStack (s.stack ++ [s.pc + 2])).setPc (addrWord nnn))) :=
  s.push_cases (s.pc + 2) fun t => .next (t.setPc (addrWord nnn))

theorem State.setStack_setPc_onlyChanges (s : State) (l : List Word) (a : Word) :
    OnlyChanges s ((s.setStack l).setPc a) [.pc, .stack] :=
  ((s.setStack_onlyChanges l).trans ((s.setStack l).setPc_onlyChanges a)).mono (by decide)

/-- Settles O8: a stack that ends in `a` is not empty, so RET pops `a` into PC. -/
theorem returnPopsIntoPc : Obligations.ReturnPopsIntoPc := by
  unfold Obligations.ReturnPopsIntoPc
  intro s l a hs
  exact ⟨_, exec_ret_of_top hs, rfl, rfl, s.setStack_setPc_onlyChanges l a⟩

/-- Settles O10: below the capacity CALL does not report, and the return address is PC + 2 in 16 bits. -/
theorem callPushesAndJumps : Obligations.CallPushesAndJumps := by
  unfold Obligations.CallPushesAndJumps
  intro s nnn hlt
  rcases exec_call_cases nnn s with ⟨hfull, -⟩ | ⟨-, h⟩
  · exact absurd hfull (Nat.ne_of_lt hlt)
  · exact ⟨_, _, h, rfl, BitVec.toNat_add _ _, addrWord_toNat nnn, s.setStack_setPc_onlyChanges _ _⟩

/-- Settles O11: the two raising cases of CALL and RET. -/
theorem stackErrorsWriteNothing : Obligations.StackErrorsWriteNothing := by
  unfold Obligations.StackErrorsWriteNothing
  intro s nnn
  refine ⟨fun hfull => ?_, fun hempty => ⟨_, exec_ret_of_empty hempty, rfl, s.setResult_onlyChanges _⟩⟩
  rcases exec_call_cases nnn s with ⟨-, h⟩ | ⟨hne, -⟩
  · exact ⟨_, h, rfl, s.setResult_onlyChanges _⟩
  · exact absurd hfull hne

end Sys2Proof.Machine
end

section
/-! ## Skips on registers and keys (R115, R116, R160, R161) -/

namespace Sys2Proof.Machine

theorem exec_seReg (x y : Reg) (s : State) :
    exec (.seReg x y) s = .next (s.skipIf (decide (s.getV x = s.getV y))) := rfl

theorem exec_sneReg (x y : Reg) (s : State) :
    exec (.sneReg x y) s = .next (s.skipIf (decide (s.getV x ≠ s.getV y))) := by
  rw [decide_not]; rfl

theorem exec_skp (x : Reg) (s : State) :
    exec (.skp x) s = .next (s.skipIf (decide (s.inputs.keys.getLsbD ((s.getV x).toNat % 16) = true))) := by
  rw [Bool.decide_eq_true]; rfl

theorem exec_sknp (x : Reg) (s : State) :
    exec (.sknp x) s = .next (s.skipIf (decide (s.inputs.keys.getLsbD ((s.getV x).toNat % 16) = false))) := by
  rw [Bool.decide_eq_false]; rfl

/-- Settles O13: SE and SNE are skips on the equality of two register values and on its negation. -/
theorem registerSkips : Obligations.RegisterSkips := by
  unfold Obligations.RegisterSkips
  intro s x y
  exact ⟨skip_of_exec_eq _ (exec_seReg x y s), skip_of_exec_eq _ (exec_sneReg x y s)⟩

/-- Settles O32: SKP and SKNP are skips on the level of one key. -/
theorem keySkips : Obligations.KeySkips := by
  unfold Obligations.KeySkips
  intro s x
  exact ⟨skip_of_exec_eq _ (exec_skp x s), skip_of_exec_eq _ (exec_sknp x s)⟩

end Sys2Proof.Machine
end

section
/-! ## Arithmetic with a flag, shifts, and the random byte (R128 to R134) -/

namespace Sys2Proof.Machine

/-! ### What the arms of `exec` answer -/

theorem exec_addReg (x y : Reg) (s : State) : exec (.addReg x y) s =
    .next (s.setVFlag x (sumByte (s.getV x) (s.getV y)) (carryFlag (s.getV x) (s.getV y))).advance := rfl

theorem exec_subReg (x y : Reg) (s : State) : exec (.subReg x y) s =
    .next (s.setVFlag x (diffByte (s.getV x) (s.getV y)) (greaterFlag (s.getV x) (s.getV y))).advance := rfl

theorem exec_subnReg (x y : Reg) (s : State) : exec (.subnReg x y) s =
    .next (s.setVFlag x (diffByte (s.getV y) (s.getV x)) (greaterFlag (s.getV y) (s.getV x))).advance := rfl

theorem exec_shr (x y : Reg) (s : State) : exec (.shr x y) s =
    .next (s.setVFlag x (shrByte (s.getV x)) (lowBitFlag (s.getV x))).advance := rfl

theorem exec_shl (x y : Reg) (s : State) : exec (.shl x y) s =
    .next (s.setVFlag x (shlByte (s.getV x)) (highBitFlag (s.getV x))).advance := rfl

theorem exec_rnd (x : Reg) (kk : Byte) (s : State) :
    exec (.rnd x kk) s = .next (s.setV x (s.inputs.rnd &&& kk)).advance := rfl

/-! ### The write of a result and a flag, and the advance -/

/-- VF holds the flag, also when it is the destination (R121). -/
theorem State.getV_vf_advance_setVFlag (s : State) (x : Reg) (b f : Byte) :
    (s.setVFlag x b f).advance.getV 0xF = f := by
  rw [State.advance_getV, State.getV_setVFlag]
  exact if_pos rfl

theorem State.getV_advance_setVFlag_of_ne (s : State) {x : Reg} (b f : Byte) (hx : x ≠ 0xF) :
    (s.setVFlag x b f).advance.getV x = b := by
  rw [State.advance_getV, State.getV_setVFlag, if_neg (show x ≠ vf from hx), if_pos rfl]

theorem State.advance_setVFlag_frame (s : State) (x : Reg) (b f : Byte) :
    OnlyRegs s (s.setVFlag x b f).advance [x, 0xF] ∧ PcMoved s (s.setVFlag x b f).advance 2 ∧
      OnlyChanges s (s.setVFlag x b f).advance [.v, .pc] := by
  refine ⟨fun r hr => ?_, (s.setVFlag_onlyChanges x b f).advance_frame (by decide)⟩
  obtain ⟨hx, hf⟩ : r ≠ x ∧ r ≠ vf := by simpa [vf] using hr
  rw [State.advance_getV, State.getV_setVFlag, if_neg hf, if_neg hx]

/-! ### The obligations -/

/-- Settles O17: the sum goes to Vx and then the carry to VF. -/
theorem addRegistersWithCarry : Obligations.AddRegistersWithCarry := by
  unfold Obligations.AddRegistersWithCarry
  intro s x y
  refine ⟨_, exec_addReg x y s, ?_, fun hx => ?_, s.advance_setVFlag_frame x _ _⟩
  · rw [State.getV_vf_advance_setVFlag, carryFlag_eq]
  · rw [State.getV_advance_setVFlag_of_ne s _ _ hx, sumByte_toNat]

/-- Settles O18: SUBN is SUB with the operands exchanged. -/
theorem subtractionsWithStrictFlag : Obligations.SubtractionsWithStrictFlag := by
  unfold Obligations.SubtractionsWithStrictFlag
  intro s x y
  refine ⟨⟨_, exec_subReg x y s, ?_, fun hx => ?_, s.advance_setVFlag_frame x _ _⟩,
    ⟨_, exec_subnReg x y s, ?_, fun hx => ?_, s.advance_setVFlag_frame x _ _⟩⟩
  · rw [State.getV_vf_advance_setVFlag, greaterFlag_eq]
  · rw [State.getV_advance_setVFlag_of_ne s _ _ hx, diffByte_toInt]
  · rw [State.getV_vf_advance_setVFlag, greaterFlag_eq]
  · rw [State.getV_advance_setVFlag_of_ne s _ _ hx, diffByte_toInt]

/-- Settles O19: both shifts read Vx alone, and the bit that leaves goes to VF. -/
theorem shiftsByOne : Obligations.ShiftsByOne := by
  unfold Obligations.ShiftsByOne
  intro s x y
  refine ⟨⟨_, exec_shr x y s, ?_, fun hx => ?_, s.advance_setVFlag_frame x _ _⟩,
    ⟨_, exec_shl x y s, ?_, fun hx => ?_, s.advance_setVFlag_frame x _ _⟩⟩
  · rw [State.getV_vf_advance_setVFlag, lowBitFlag_toNat]
  · rw [State.getV_advance_setVFlag_of_ne s _ _ hx, shrByte_toNat]
  · rw [State.getV_vf_advance_setVFlag, highBitFlag_toNat]
  · rw [State.getV_advance_setVFlag_of_ne s _ _ hx, shlByte_toNat]

/-- Settles O20: the one register written gets the random byte under the mask, bit by bit. -/
theorem randomByteUnderMask : Obligations.RandomByteUnderMask := by
  unfold Obligations.RandomByteUnderMask
  intro s x kk
  refine ⟨_, exec_rnd x kk s, fun k _ => ?_, s.advance_setV_frame x _⟩
  rw [State.getV_advance_setV_same, BitVec.getLsbD_and]

end Sys2Proof.Machine
end

section
/-! ## The index register and the timers (R141, R142, R163 to R165) -/

namespace Sys2Proof.Machine

theorem exec_addIndex (x : Reg) (s : State) :
    exec (.addIndex x) s = .next (s.setIndex (s.index + byteWord (s.getV x))).advance := rfl

theorem exec_ldFont (x : Reg) (s : State) :
    exec (.ldFont x) s = .next (s.setIndex (BitVec.ofNat 16 ((s.getV x).toNat * Config.glyphBytes))).advance := rfl

theorem exec_ldVxDt (x : Reg) (s : State) : exec (.ldVxDt x) s = .next (s.setV x s.dt).advance := rfl

theorem exec_ldDtVx (x : Reg) (s : State) :
    exec (.ldDtVx x) s = .next (s.setDelay (s.getV x) s.inputs.now).advance := rfl

theorem exec_ldStVx (x : Reg) (s : State) :
    exec (.ldStVx x) s = .next (s.setSound (s.getV x) s.inputs.now).advance := rfl

/-- Settles O22: the sum of two 16-bit words, one of them a byte. -/
theorem addToIndexWrapsWithoutFlag : Obligations.AddToIndexWrapsWithoutFlag := by
  unfold Obligations.AddToIndexWrapsWithoutFlag
  intro s x
  refine ⟨_, exec_addIndex x s, ?_, s.advance_setIndex_frame _⟩
  rw [State.index_advance_setIndex, BitVec.toNat_add, byteWord_toNat]

/-- Settles O23: five times a byte fits in 16 bits. -/
theorem fontAddressIsFiveTimesVx : Obligations.FontAddressIsFiveTimesVx := by
  unfold Obligations.FontAddressIsFiveTimesVx
  intro s x
  refine ⟨_, exec_ldFont x s, ?_, s.advance_setIndex_frame _⟩
  have hbyte := (s.getV x).isLt
  rw [State.index_advance_setIndex, BitVec.toNat_ofNat, Config.glyphBytes]
  omega

/-- Settles O34: the read is one write of Vx, the write one of the timer and its reference. -/
theorem delayTimerTransfers : Obligations.DelayTimerTransfers := by
  unfold Obligations.DelayTimerTransfers
  intro s x
  exact ⟨⟨_, exec_ldVxDt x s, s.getV_advance_setV_same x s.dt, s.advance_setV_frame x s.dt⟩,
    ⟨_, exec_ldDtVx x s, rfl, rfl, (s.setDelay_onlyChanges _ _).advance_frame (by decide)⟩⟩

/-- Settles O35: one write of the timer and its reference. -/
theorem setSoundTimer : Obligations.SetSoundTimer := by
  unfold Obligations.SetSoundTimer
  intro s x
  exact ⟨_, exec_ldStVx x s, rfl, rfl, (s.setSound_onlyChanges _ _).advance_frame (by decide)⟩

end Sys2Proof.Machine
end

section
/-! ## Memory through I (R143 to R146, R62) -/

namespace Sys2Proof.Machine

/-! ### What the arms of `exec` answer -/

/-- The state after the three writes of LD B,Vx. -/
def State.storeBcd (s : State) (b : Byte) : State :=
  ((s.writeByte (s.indexed 0) (hundreds b)).writeByte (s.indexed 1) (tens b)).writeByte (s.indexed 2) (ones b)

theorem exec_ldBcd (x : Reg) (s : State) : exec (.ldBcd x) s = .next (s.storeBcd (s.getV x)).advance := rfl

theorem exec_storeRegs (x : Reg) (s : State) : exec (.storeRegs x) s = .next (s.storeUpTo (x.toNat + 1)).advance := rfl

theorem exec_loadRegs (x : Reg) (s : State) : exec (.loadRegs x) s = .next (s.loadUpTo (x.toNat + 1)).advance := rfl

/-! ### Addresses -/

/-- The reduction keeps offsets below the size of memory apart, also where the addresses wrap (R52). -/
theorem a12_add_inj {a i j : Nat} (hi : i < 4096) (hj : j < 4096) : a12 (a + i) = a12 (a + j) ↔ i = j := by
  simp only [a12, Config.memSize]
  omega

theorem a12_add_one_congr {a b : Nat} (h : a12 a = a12 b) : a12 (a + 1) = a12 (b + 1) := by
  simp only [a12, Config.memSize] at h ⊢
  omega

theorem State.readByte_congr (s : State) {a b : Nat} (h : a12 a = a12 b) : s.readByte a = s.readByte b := by
  rw [← State.readByte_a12, h, State.readByte_a12]

/-! ### Decimal digits -/

theorem hundreds_toNat (b : Byte) : (hundreds b).toNat = b.toNat / 100 := by
  rw [hundreds, BitVec.toNat_ofNat]
  omega

theorem tens_toNat (b : Byte) : (tens b).toNat = b.toNat / 10 % 10 := by
  rw [tens, BitVec.toNat_ofNat]
  omega

theorem ones_toNat (b : Byte) : (ones b).toNat = b.toNat % 10 := by
  rw [ones, BitVec.toNat_ofNat]
  omega

theorem State.storeBcd_hundreds (s : State) (b : Byte) : (s.storeBcd b).readByte s.index.toNat = hundreds b := by
  have h₁ : a12 (s.indexed 1) ≠ a12 s.index.toNat :=
    fun h => absurd ((a12_add_inj (i := 1) (j := 0) (by decide) (by decide)).1 h) (by decide)
  have h₂ : a12 (s.indexed 2) ≠ a12 s.index.toNat :=
    fun h => absurd ((a12_add_inj (i := 2) (j := 0) (by decide) (by decide)).1 h) (by decide)
  rw [State.storeBcd, State.readByte_writeByte, if_neg h₂, State.readByte_writeByte, if_neg h₁,
    State.readByte_writeByte]
  exact if_pos rfl

theorem State.storeBcd_tens (s : State) (b : Byte) : (s.storeBcd b).readByte (s.index.toNat + 1) = tens b := by
  have h₂ : a12 (s.indexed 2) ≠ a12 (s.index.toNat + 1) :=
    fun h => absurd ((a12_add_inj (i := 2) (j := 1) (by decide) (by decide)).1 h) (by decide)
  rw [State.storeBcd, State.readByte_writeByte, if_neg h₂, State.readByte_writeByte]
  exact if_pos rfl

theorem State.storeBcd_ones (s : State) (b : Byte) : (s.storeBcd b).readByte (s.index.toNat + 2) = ones b := by
  rw [State.storeBcd, State.readByte_writeByte]
  exact if_pos rfl

theorem State.storeBcd_onlyBytes (s : State) (b : Byte) : OnlyBytes s (s.storeBcd b) s.index.toNat 3 := by
  intro c hc
  replace hc : ∀ i < 3, a12 (s.indexed i) ≠ a12 c := hc
  rw [State.storeBcd, State.readByte_writeByte, if_neg (hc 2 (by decide)), State.readByte_writeByte,
    if_neg (hc 1 (by decide)), State.readByte_writeByte, if_neg (hc 0 (by decide))]

theorem State.storeBcd_onlyChanges (s : State) (b : Byte) : OnlyChanges s (s.storeBcd b) [.mem] :=
  (((s.writeByte_onlyChanges _ _).trans (State.writeByte_onlyChanges _ _ _)).trans
    (State.writeByte_onlyChanges _ _ _)).mono (by decide)

/-- Settles O24: the three writes do not meet, and the digits of a byte make up the byte. -/
theorem bcdStoresTheDigitsOfVx : Obligations.BcdStoresTheDigitsOfVx := by
  unfold Obligations.BcdStoresTheDigitsOfVx
  intro s x
  have hbyte := (s.getV x).isLt
  refine ⟨_, exec_ldBcd x s, ?_, ?_, ?_, ?_, s.storeBcd_onlyBytes _,
    (s.storeBcd_onlyChanges _).advance_frame (by decide)⟩
  all_goals
    simp only [State.advance_readByte, State.storeBcd_hundreds, State.storeBcd_tens, State.storeBcd_ones,
      hundreds_toNat, tens_toNat, ones_toNat]
    omega

/-! ### Bulk transfers -/

@[simp] theorem regNum_eq (r : Reg) : regNum r.toNat = r := by simp [regNum]

theorem State.readByte_storeUpTo {s : State} {x r : Reg} (h : r.toNat ≤ x.toNat) :
    (s.storeUpTo (x.toNat + 1)).readByte (s.index.toNat + r.toNat) = s.getV r := by
  obtain ⟨hbytes, -, -, -⟩ := s.storeUpTo_spec (x.toNat + 1) x.isLt
  exact (hbytes r.toNat (Nat.lt_succ_of_le h)).trans (congrArg s.getV (regNum_eq r))

theorem State.storeUpTo_onlyBytes (s : State) (x : Reg) :
    OnlyBytes s (s.storeUpTo (x.toNat + 1)) s.index.toNat (x.toNat + 1) := by
  obtain ⟨-, honly, -, -⟩ := s.storeUpTo_spec (x.toNat + 1) x.isLt
  exact honly

theorem State.storeUpTo_onlyChanges (s : State) (x : Reg) : OnlyChanges s (s.storeUpTo (x.toNat + 1)) [.mem] := by
  obtain ⟨-, -, honly, -⟩ := s.storeUpTo_spec (x.toNat + 1) x.isLt
  exact honly

theorem State.getV_loadUpTo (s : State) (x r : Reg) : (s.loadUpTo (x.toNat + 1)).getV r =
    if r.toNat < x.toNat + 1 then s.readByte (s.index.toNat + r.toNat) else s.getV r :=
  (s.loadUpTo_spec (x.toNat + 1) x.isLt).1 r

theorem State.loadUpTo_onlyChanges (s : State) (x : Reg) : OnlyChanges s (s.loadUpTo (x.toNat + 1)) [.v] :=
  (s.loadUpTo_spec (x.toNat + 1) x.isLt).2

/-- Settles O25: the bulk store writes the bytes of V0 to Vx and no other, and then PC advances. -/
theorem bulkStoreCopiesRegisters : Obligations.BulkStoreCopiesRegisters := by
  unfold Obligations.BulkStoreCopiesRegisters
  intro s x
  exact ⟨_, exec_storeRegs x s, fun r hr => State.readByte_storeUpTo hr, s.storeUpTo_onlyBytes x,
    (s.storeUpTo_onlyChanges x).advance_frame (by decide)⟩

/-- Settles O26: the bulk load writes V0 to Vx from the bytes at I and no other register, and then PC advances. -/
theorem bulkLoadCopiesMemory : Obligations.BulkLoadCopiesMemory := by
  unfold Obligations.BulkLoadCopiesMemory
  intro s x
  refine ⟨_, exec_loadRegs x s, fun r hr => ?_, fun r hr => ?_, (s.loadUpTo_onlyChanges x).advance_frame (by decide)⟩
  · rw [State.advance_getV, State.getV_loadUpTo, if_pos (Nat.lt_succ_of_le hr)]
  · rw [State.advance_getV, State.getV_loadUpTo, if_neg (Nat.not_lt.2 hr)]

/-- Settles O27: the load reads the bytes that the store left, through the same I. -/
theorem bulkStoreThenLoadRoundTrip : Obligations.BulkStoreThenLoadRoundTrip := by
  unfold Obligations.BulkStoreThenLoadRoundTrip
  intro s t u w x hst hindex hmem huw r hr
  obtain ⟨t', ht', hbytes, -, -, honly⟩ := bulkStoreCopiesRegisters s x
  obtain ⟨w', hw', hregs, -⟩ := bulkLoadCopiesMemory u x
  cases hst.symm.trans ht'
  cases huw.symm.trans hw'
  have hi : u.index = s.index := Eq.trans hindex (honly .index (by decide))
  rw [hregs r hr, hmem, hi, hbytes r hr]

/-- Settles O28: PC points to two bytes that the store wrote, by whichever address reduces to theirs. -/
theorem storedBytesAreFetched : Obligations.StoredBytesAreFetched := by
  unfold Obligations.StoredBytesAreFetched
  intro s t x a i hst hi ha
  obtain ⟨t', ht', hbytes, -⟩ := bulkStoreCopiesRegisters s x
  cases hst.symm.trans ht'
  have hx := x.isLt
  have byteAt : ∀ j ≤ x.toNat, t.readByte (s.index.toNat + j) = s.getV (BitVec.ofNat 4 j) := by
    intro j hj
    have hnum : (BitVec.ofNat 4 j).toNat = j := regNum_toNat j (by omega)
    simpa only [hnum] using hbytes (BitVec.ofNat 4 j) (by rwa [hnum])
  have hhi : t.readByte a.toNat = s.getV (BitVec.ofNat 4 i) := by
    rw [← byteAt i (by omega)]
    exact t.readByte_congr ha
  have hlo : t.readByte (a.toNat + 1) = s.getV (BitVec.ofNat 4 (i + 1)) := by
    rw [← byteAt (i + 1) (by omega)]
    exact t.readByte_congr (a12_add_one_congr ha)
  calc (t.setPc a).fetch.toNat = (t.readByte a.toNat).toNat * 256 + (t.readByte (a.toNat + 1)).toNat :=
        wordOfBytes_toNat _ _
    _ = _ := by rw [hhi, hlo]

end Sys2Proof.Machine
end

section
/-! ## Sprites (R151 to R156) -/

namespace Sys2Proof.Machine

/-- The blit of DRW Vx,Vy,n. -/
def State.drawn (s : State) (x y : Reg) (n : BitVec 4) : Framebuffer × Bool :=
  s.plotSprite (s.getV x).toNat (s.getV y).toNat n.toNat

theorem exec_drw (x y : Reg) (n : BitVec 4) (s : State) : exec (.drw x y n) s =
    .next ((s.setFb (s.drawn x y n).1).setV vf (flagByte (s.drawn x y n).2)).advance := rfl

theorem State.setFb_setV_onlyChanges (s : State) (f : Framebuffer) (x : Reg) (b : Byte) :
    OnlyChanges s ((s.setFb f).setV x b) [.v, .fb] :=
  ((s.setFb_onlyChanges f).trans (State.setV_onlyChanges _ x b)).mono (by decide)

/-- A pixel after the blit is toggled exactly when the sprite covers it (R151). -/
theorem State.pixel_drawn (s : State) (x y : Reg) (n : BitVec 4) (r c : Nat) : pixel (s.drawn x y n).1 r c =
    (pixel s.fb r c ^^ spriteCovers s (s.getV x).toNat (s.getV y).toNat n.toNat r c) :=
  (s.plotSprite_spec _ _ _ (by omega)).1 r c

/-- The blit collides exactly when the sprite covers a pixel of the screen that was lit (R155). -/
theorem State.drawn_collides_iff (s : State) (x y : Reg) (n : BitVec 4) : (s.drawn x y n).2 = true ↔
    ∃ r c : Nat, r < 32 ∧ c < 64 ∧ SpriteCovers s (s.getV x).toNat (s.getV y).toNat n.toNat r c ∧
      pixel s.fb r c = true := by
  rw [State.drawn, (s.plotSprite_spec _ _ _ (by omega)).2]
  constructor
  · rintro ⟨r, c, hcov, hlit⟩
    refine ⟨r % 32, c % 64, Nat.mod_lt _ (by decide), Nat.mod_lt _ (by decide),
      (spriteCovers_iff s _ _ _ r c).1 hcov, ?_⟩
    simpa [pixel] using hlit
  · rintro ⟨r, c, hr, hc, hcov, hlit⟩
    refine ⟨r, c, (spriteCovers_iff s _ _ _ r c).2 ?_, hlit⟩
    rwa [Nat.mod_eq_of_lt hr, Nat.mod_eq_of_lt hc]

/-- Settles O30: the blit toggles the covered pixels and says whether one was lit, and VF is the one register written. -/
theorem drawTogglesTheSpriteAndReportsCollision : Obligations.DrawTogglesTheSpriteAndReportsCollision := by
  unfold Obligations.DrawTogglesTheSpriteAndReportsCollision
  intro s x y n
  refine ⟨_, exec_drw x y n s, fun r c hr hc => ?_, fun hhit => ?_, fun hmiss => ?_, fun r hr => ?_,
    (s.setFb_setV_onlyChanges _ _ _).advance_frame (by decide)⟩
  · have hcov := spriteCovers_iff s (s.getV x).toNat (s.getV y).toNat n.toNat r c
    rw [Nat.mod_eq_of_lt hr, Nat.mod_eq_of_lt hc] at hcov
    rw [State.advance_fb, State.setV_fb, State.setFb_fb, State.pixel_drawn, ← hcov]
    exact ⟨fun h => by simp [h], fun h => by simp [h]⟩
  · exact (State.getV_setV_same _ vf _).trans (by rw [(s.drawn_collides_iff x y n).2 hhit]; rfl)
  · exact (State.getV_setV_same _ vf _).trans
      (by rw [Bool.eq_false_iff.2 (mt (s.drawn_collides_iff x y n).1 hmiss)]; rfl)
  · have hvf : r ≠ vf := List.ne_of_not_mem_cons hr
    rw [State.advance_getV, State.getV_setV_other _ _ hvf, State.setFb_getV]

theorem spriteCovers_congr {s u : State} (hi : u.index = s.index) (hm : SameOn s u .mem) (vx vy n r c : Nat) :
    spriteCovers u vx vy n r c = spriteCovers s vx vy n r c := by
  have hbyte : ∀ row, u.readByte (u.indexed row) = s.readByte (s.indexed row) := fun row => by
    rw [hm, State.indexed, State.indexed, hi]
  simp only [spriteCovers, hbyte]

/-- Settles O31: both blits toggle the same pixels, since the second reads the same I, memory and coordinates. -/
theorem drawingTwiceRestoresTheFramebuffer : Obligations.DrawingTwiceRestoresTheFramebuffer := by
  unfold Obligations.DrawingTwiceRestoresTheFramebuffer
  intro s t u w x y x' y' n hst hfb hindex hmem hx hy huw
  rw [exec_drw] at hst huw
  cases hst
  cases huw
  refine framebuffer_ext _ _ fun r c _ _ => ?_
  have hcov := spriteCovers_congr (s := s) hindex hmem
  have hu : u.fb = (s.drawn x y n).1 := hfb
  rw [State.advance_fb, State.setV_fb, State.setFb_fb, State.pixel_drawn, hcov, hu, hx, hy, State.pixel_drawn,
    Bool.xor_assoc, Bool.xor_self, Bool.xor_false]

end Sys2Proof.Machine
end

section
/-! ## What an instruction can write (R22, R23, R27 to R34, R50, R174) -/

namespace Sys2Proof.Machine

/-- The components that an instruction can write. CALL and RET write the result when they raise (R172, R173). -/
def writes : Instr → List Component
  | .cls => [.fb, .pc]
  | .ret | .call _ => [.pc, .stack, .result]
  | .jp _ | .jpV0 _ | .seImm _ _ | .sneImm _ _ | .seReg _ _ | .sneReg _ _ | .skp _ | .sknp _ => [.pc]
  | .ldImm _ _ | .addImm _ _ | .ldReg _ _ | .orReg _ _ | .andReg _ _ | .xorReg _ _ | .addReg _ _ | .subReg _ _
  | .shr _ _ | .subnReg _ _ | .shl _ _ | .rnd _ _ | .ldVxDt _ | .loadRegs _ => [.v, .pc]
  | .ldIndex _ | .addIndex _ | .ldFont _ => [.index, .pc]
  | .drw _ _ _ => [.v, .fb, .pc]
  | .ldVxKey _ => [.es, .pc]
  | .ldDtVx _ => [.delay, .pc]
  | .ldStVx _ => [.sound, .pc]
  | .ldBcd _ | .storeRegs _ => [.mem, .pc]

theorem State.skipIf_onlyChanges (s : State) (c : Bool) : OnlyChanges s (s.skipIf c) [.pc] := (s.skipIf_spec c).2

/-- Every instruction answers a next state, and writes only its own components. -/
theorem exec_next_onlyChanges (i : Instr) (s : State) : ∃ t, exec i s = .next t ∧ OnlyChanges s t (writes i) := by
  have hraise (r : TickResult) : OnlyChanges s (s.setResult r) [.pc, .stack, .result] :=
    (s.setResult_onlyChanges r).mono (by decide)
  have hstack (l : List Word) (a : Word) : OnlyChanges s ((s.setStack l).setPc a) [.pc, .stack, .result] :=
    (s.setStack_setPc_onlyChanges l a).mono (by decide)
  cases i
  case ret =>
    rcases exec_ret_cases s with ⟨-, h⟩ | ⟨l, a, -, h⟩
    · exact ⟨_, h, hraise _⟩
    · exact ⟨_, h, hstack l a⟩
  case call nnn =>
    rcases exec_call_cases nnn s with ⟨-, h⟩ | ⟨-, h⟩
    · exact ⟨_, h, hraise _⟩
    · exact ⟨_, h, hstack _ _⟩
  case jp | jpV0 => exact ⟨_, rfl, s.setPc_onlyChanges _⟩
  case seImm | sneImm | seReg | sneReg | skp | sknp => exact ⟨_, rfl, s.skipIf_onlyChanges _⟩
  case cls => exact ⟨_, rfl, (s.setFb_onlyChanges _).advance⟩
  case ldImm | addImm | ldReg | orReg | andReg | xorReg | rnd | ldVxDt =>
    exact ⟨_, rfl, (s.setV_onlyChanges _ _).advance⟩
  case addReg | subReg | shr | subnReg | shl => exact ⟨_, rfl, (s.setVFlag_onlyChanges _ _ _).advance⟩
  case ldIndex | addIndex | ldFont => exact ⟨_, rfl, (s.setIndex_onlyChanges _).advance⟩
  case drw => exact ⟨_, rfl, (s.setFb_setV_onlyChanges _ _ _).advance⟩
  case ldVxKey => exact ⟨_, rfl, (s.setEs_onlyChanges _).advance⟩
  case ldDtVx => exact ⟨_, rfl, (s.setDelay_onlyChanges _ _).advance⟩
  case ldStVx => exact ⟨_, rfl, (s.setSound_onlyChanges _ _).advance⟩
  case ldBcd => exact ⟨_, rfl, (s.storeBcd_onlyChanges _).advance⟩
  case storeRegs => exact ⟨_, rfl, (s.storeUpTo_onlyChanges _).advance⟩
  case loadRegs => exact ⟨_, rfl, (s.loadUpTo_onlyChanges _).advance⟩

theorem exec_onlyChanges {i : Instr} {s t : State} (h : exec i s = .next t) : OnlyChanges s t (writes i) := by
  obtain ⟨t', ht', honly⟩ := exec_next_onlyChanges i s
  cases h.symm.trans ht'
  exact honly

/-- Settles O43: only CALL and RET write the result, and where they do they write nothing else. -/
theorem errorsArePrecise : Obligations.ErrorsArePrecise := by
  unfold Obligations.ErrorsArePrecise
  intro s t i hok h herr
  by_cases hres : Component.result ∈ writes i
  · cases i <;> simp [writes] at hres
    case ret =>
      rcases exec_ret_cases s with ⟨-, hr⟩ | ⟨l, a, -, hr⟩ <;> cases hr.symm.trans h
      · exact s.setResult_onlyChanges _
      · exact absurd hok herr
    case call nnn =>
      rcases exec_call_cases nnn s with ⟨-, hc⟩ | ⟨-, hc⟩ <;> cases hc.symm.trans h
      · exact s.setResult_onlyChanges _
      · exact absurd hok herr
  · exact absurd (Eq.trans (exec_onlyChanges h .result hres) hok) herr

/-- What an instruction can do to the stack: a CALL below the capacity adds an entry, a RET drops the top. -/
theorem exec_stack_cases {i : Instr} {s t : State} (h : exec i s = .next t) :
    t.stack = s.stack ∨
      (∃ nnn a, i = .call nnn ∧ s.stack.length ≠ Config.stackDepth ∧ t.stack = s.stack ++ [a]) ∨
      (i = .ret ∧ ∃ a, s.stack = t.stack ++ [a]) := by
  by_cases hstack : Component.stack ∈ writes i
  · cases i <;> simp [writes] at hstack
    case ret =>
      rcases exec_ret_cases s with ⟨-, hr⟩ | ⟨l, a, hl, hr⟩ <;> cases hr.symm.trans h
      · exact .inl rfl
      · exact .inr (.inr ⟨rfl, a, hl⟩)
    case call nnn =>
      rcases exec_call_cases nnn s with ⟨-, hc⟩ | ⟨hroom, hc⟩ <;> cases hc.symm.trans h
      · exact .inl rfl
      · exact .inr (.inl ⟨nnn, _, rfl, hroom, rfl⟩)
  · exact .inl (exec_onlyChanges h .stack hstack)

/-- Settles O51: the three cases of the stack. -/
theorem onlyCallPushesAndOnlyRetPops : Obligations.OnlyCallPushesAndOnlyRetPops := by
  unfold Obligations.OnlyCallPushesAndOnlyRetPops
  intro i s t h
  rcases exec_stack_cases h with hsame | ⟨nnn, a, hi, -, hpush⟩ | hpop
  · exact .inl hsame
  · exact .inr (.inl ⟨⟨nnn, hi⟩, a, hpush⟩)
  · exact .inr (.inr hpop)

/-- Settles O52: no other instruction writes the framebuffer. -/
theorem onlyClsAndDrwChangeTheFramebuffer : Obligations.OnlyClsAndDrwChangeTheFramebuffer := by
  unfold Obligations.OnlyClsAndDrwChangeTheFramebuffer
  intro i s t h hcls hdrw
  have hfb : Component.fb ∉ writes i := by cases i <;> simp_all [writes]
  exact exec_onlyChanges h .fb hfb

/-- Settles O53: no other instruction writes memory. -/
theorem onlyBcdAndBulkStoreWriteMemory : Obligations.OnlyBcdAndBulkStoreWriteMemory := by
  unfold Obligations.OnlyBcdAndBulkStoreWriteMemory
  intro i s t h hbcd hstore
  have hmem : Component.mem ∉ writes i := by cases i <;> simp_all [writes]
  exact exec_onlyChanges h .mem hmem

theorem delay_not_mem_writes {i : Instr} (h : ∀ x, i ≠ .ldDtVx x) : Component.delay ∉ writes i := by
  cases i <;> simp_all [writes]

/-- Settles O54: one component after the other. -/
theorem onlyTheirInstructionsWriteIndexTimersAndWait : Obligations.OnlyTheirInstructionsWriteIndexTimersAndWait := by
  unfold Obligations.OnlyTheirInstructionsWriteIndexTimersAndWait
  intro i s t h
  have honly := exec_onlyChanges h
  refine ⟨fun hld hadd hfont => honly .index ?_, fun hdt => honly .delay (delay_not_mem_writes hdt),
    fun hst => honly .sound ?_, fun hkey => honly .es ?_⟩
  all_goals cases i <;> simp_all [writes]

/-- A register write that changes VF names it. -/
theorem vf_of_getV_advance_setV_ne {s : State} {x : Reg} {b : Byte}
    (h : (s.setV x b).advance.getV 0xF ≠ s.getV 0xF) : x = 0xF := by
  by_contra hx
  exact h (State.getV_setV_other s b (Ne.symm hx))

/-- A bulk load that changes VF is one of all sixteen registers. -/
theorem vf_of_getV_advance_loadUpTo_ne {s : State} {x : Reg}
    (h : (s.loadUpTo (x.toNat + 1)).advance.getV 0xF ≠ s.getV 0xF) : x = 0xF := by
  by_contra hx
  have hlt : ¬ (0xF : Reg).toNat < x.toNat + 1 := by bv_omega
  exact h (by rw [State.advance_getV, State.getV_loadUpTo, if_neg hlt])

/-- Settles O55: an instruction that changes VF writes registers, and one that is no flag setter wrote its destination. -/
theorem onlySixInstructionsWriteVfAsASideEffect : Obligations.OnlySixInstructionsWriteVfAsASideEffect := by
  unfold Obligations.OnlySixInstructionsWriteVfAsASideEffect
  intro i s t h hvf
  have hv : Component.v ∈ writes i := by
    by_contra hv
    exact hvf (exec_onlyChanges h .v hv 0xF)
  cases i <;> simp [writes] at hv
  case loadRegs x =>
    cases h
    cases vf_of_getV_advance_loadUpTo_ne hvf
    simp
  case ldImm x kk | addImm x kk | ldReg x y | orReg x y | andReg x y | xorReg x y | rnd x kk | ldVxDt x =>
    cases h
    cases vf_of_getV_advance_setV_ne hvf
    simp
  all_goals simp

end Sys2Proof.Machine
end

section
/-! ## The timer advance (R95, R104) -/

namespace Sys2Proof.Machine

theorem timerDue_iff (t : Byte) (ref now t60 : Nat) :
    timerDue t ref now t60 = true ↔ t.toNat > 0 ∧ now ≥ ref + t60 := by
  simp [timerDue]

/-- A timer that is above 0 loses 1 without a borrow. -/
theorem toNat_sub_one_add_one {b : Byte} (h : b.toNat > 0) : (b - 1).toNat + 1 = b.toNat := by
  bv_omega

theorem State.advanceDelay_onlyChanges (s : State) : OnlyChanges s s.advanceDelay [.delay] := by
  rcases s.advanceDelay_cases with ⟨h, -⟩ | ⟨h, -⟩ <;> rw [h]
  · exact OnlyChanges.refl s _
  · exact s.setDelay_onlyChanges _ _

theorem State.advanceSound_onlyChanges (s : State) : OnlyChanges s s.advanceSound [.sound] := by
  rcases s.advanceSound_cases with ⟨h, -⟩ | ⟨h, -⟩ <;> rw [h]
  · exact OnlyChanges.refl s _
  · exact s.setSound_onlyChanges _ _

/-- What the timer advance does to the delay timer: the sound timer's part leaves it alone. -/
theorem State.advanceTimers_delay_cases (s : State) :
    ((s.dt.toNat > 0 ∧ s.inputs.now ≥ s.dtRef + s.t60) ∧
        s.advanceTimers.dt.toNat + 1 = s.dt.toNat ∧ s.advanceTimers.dtRef = s.inputs.now) ∨
      (¬ (s.dt.toNat > 0 ∧ s.inputs.now ≥ s.dtRef + s.t60) ∧ SameOn s s.advanceTimers .delay) := by
  obtain ⟨hdt, href⟩ : SameOn s.advanceDelay s.advanceTimers .delay :=
    s.advanceDelay.advanceSound_onlyChanges .delay (by decide)
  rw [← timerDue_iff]
  rcases s.advanceDelay_cases with ⟨h, hdue⟩ | ⟨h, hdue⟩ <;> rw [h] at hdt href
  · exact .inr ⟨by simp [hdue], hdt, href⟩
  · refine .inl ⟨hdue, ?_, href⟩
    rw [hdt]
    exact toNat_sub_one_add_one ((timerDue_iff _ _ _ _).1 hdue).1

/-- What the timer advance does to the sound timer: the delay timer's part leaves it, the time and T60 alone. -/
theorem State.advanceTimers_sound_cases (s : State) :
    ((s.st.toNat > 0 ∧ s.inputs.now ≥ s.stRef + s.t60) ∧
        s.advanceTimers.st.toNat + 1 = s.st.toNat ∧ s.advanceTimers.stRef = s.inputs.now) ∨
      (¬ (s.st.toNat > 0 ∧ s.inputs.now ≥ s.stRef + s.t60) ∧ SameOn s s.advanceTimers .sound) := by
  have honly := s.advanceDelay_onlyChanges
  obtain ⟨hst, href⟩ := honly .sound (by decide)
  have hinputs : s.advanceDelay.inputs = s.inputs := honly .inputs (by decide)
  have ht60 : s.advanceDelay.t60 = s.t60 := honly .t60 (by decide)
  rw [← timerDue_iff, ← hst, ← href, ← hinputs, ← ht60]
  rcases s.advanceDelay.advanceSound_cases with ⟨h, hdue⟩ | ⟨h, hdue⟩ <;> rw [State.advanceTimers, h]
  · exact .inr ⟨by simp [hdue], hst, href⟩
  · exact .inl ⟨hdue, toNat_sub_one_add_one ((timerDue_iff _ _ _ _).1 hdue).1, rfl⟩

/-- Settles O41: the two timers, each by its own cases. -/
theorem timerAdvance : Obligations.TimerAdvance := by
  unfold Obligations.TimerAdvance
  intro s
  refine ⟨fun hdue => ?_, fun hidle => ?_, fun hdue => ?_, fun hidle => ?_, s.advanceTimers_onlyChanges⟩
  · rcases s.advanceTimers_delay_cases with ⟨-, hdt, href⟩ | ⟨hidle, -⟩
    · exact ⟨Nat.eq_sub_of_add_eq hdt, href⟩
    · exact absurd hdue hidle
  · rcases s.advanceTimers_delay_cases with ⟨hdue, -⟩ | ⟨-, hsame⟩
    · exact absurd hdue hidle
    · exact hsame
  · rcases s.advanceTimers_sound_cases with ⟨-, hst, href⟩ | ⟨hidle, -⟩
    · exact ⟨Nat.eq_sub_of_add_eq hst, href⟩
    · exact absurd hdue hidle
  · rcases s.advanceTimers_sound_cases with ⟨hdue, -⟩ | ⟨-, hsame⟩
    · exact absurd hdue hidle
    · exact hsame

end Sys2Proof.Machine
end

section
/-! ## The Tick (R90 to R104, R205) -/

namespace Sys2Proof.Machine

/-! ### What a Tick answers -/

theorem tick_of_awaitingKey {s : State} {x : Reg} (h : s.es = .awaitingKey x) : tick s = .next (s.poll x) := by
  simp only [tick, h]

theorem tick_of_known {s : State} {i : Instr} (hes : s.es = .running) (hd : decode s.fetch = .known i) :
    tick s = exec i s.advanceTimers := by
  simp only [tick, hes, State.runInstruction, State.advanceTimers_fetch, hd, execDecoded]

theorem tick_of_unknown {s : State} {w : Word} (hes : s.es = .running) (hd : decode s.fetch = .unknown w) :
    tick s = execUnknown w s.advanceTimers := by
  simp only [tick, hes, State.runInstruction, State.advanceTimers_fetch, hd, execDecoded]

/-- Settles O36: the Tick begins in the sampled state, whose word is that of the step's state. -/
theorem stepRunsTheDecodedInstruction : Obligations.StepRunsTheDecodedInstruction := by
  unfold Obligations.StepRunsTheDecodedInstruction
  intro s i hphase hes hd
  exact ⟨fun inp rest hhost => (step_of_tickBegins hphase (.inl ⟨inp, rest, hhost, rfl⟩)).trans (tick_of_known hes hd),
    fun hhost => (step_of_tickBegins hphase (.inr ⟨hhost, rfl⟩)).trans (tick_of_known hes hd)⟩

/-- Settles O37: the timer advance and then the operation of an unknown word, which is the word fetched. -/
theorem tickSkipsAnUnknownWord : Obligations.TickSkipsAnUnknownWord := by
  unfold Obligations.TickSkipsAnUnknownWord
  intro b w hes hd
  obtain ⟨t, ht, hpc, hresult, honly⟩ := execUnknown_onlyChanges w b.advanceTimers
  have htick : tick b = .next t := (tick_of_unknown hes hd).trans ht
  refine ⟨t, htick, fun s hphase hb => (step_of_tickBegins hphase hb).trans htick, ?_, ?_,
    honly .delay (by decide), honly .sound (by decide),
    (b.advanceTimers_onlyChanges.trans honly).mono (by decide)⟩
  · rw [hresult, decode_unknown_word _ _ hd]
  · rw [PcMoved, hpc, State.advanceTimers_pc]
    exact BitVec.toNat_add _ _

/-! ### The key wait -/

theorem State.poll_of_leastKey {s : State} {x : Reg} {k : Nat} (h : leastKey s.inputs.keys = some k) :
    s.poll x = (s.setV x (BitVec.ofNat 8 k)).setEs .running := by
  simp only [State.poll, h]

theorem State.poll_of_no_key {s : State} {x : Reg} (h : s.inputs.keys = 0) : s.poll x = s := by
  have hnone : leastKey s.inputs.keys = none := (leastKey_none _).2 fun k _ => by simp [h]
  simp only [State.poll, hnone]

theorem tick_without_key {s : State} {x : Reg} (hes : s.es = .awaitingKey x) (hkeys : s.inputs.keys = 0) :
    tick s = .next s := by
  rw [tick_of_awaitingKey hes, State.poll_of_no_key hkeys]

/-- Settles O39: the poll writes the least key, and without a key it is the identity. -/
theorem pollTakesTheLeastPressedKey : Obligations.PollTakesTheLeastPressedKey := by
  unfold Obligations.PollTakesTheLeastPressedKey
  intro b x hes
  refine ⟨fun k hk hpressed hleast => ?_, fun hkeys => ?_⟩
  · have hpoll := State.poll_of_leastKey (x := x) ((leastKey_some _ k).2 ⟨hk, hpressed, hleast⟩)
    have htick : tick b = .next ((b.setV x (BitVec.ofNat 8 k)).setEs .running) := by
      rw [tick_of_awaitingKey hes, hpoll]
    refine ⟨_, htick, fun s hphase hb => ⟨(step_of_tickBegins hphase hb).trans htick, hb.result_ok⟩, ?_, rfl,
      fun r hr => ?_, hpoll ▸ b.poll_onlyChanges x⟩
    · rw [State.setEs_getV, State.getV_setV_same, BitVec.toNat_ofNat]
      omega
    · rw [State.setEs_getV, State.getV_setV_other b _ (List.ne_of_not_mem_cons hr)]
  · have htick : tick b = .next b := tick_without_key hes hkeys
    exact ⟨htick, fun s hphase hb => ⟨(step_of_tickBegins hphase hb).trans htick, hb.result_ok⟩⟩

/-- The state in which a Tick with the inputs `inp` begins, the host's list being `rest` from then on. -/
def State.atListedTick (s : State) (inp : TickInputs) (rest : List Transaction) : State :=
  ({ s with host := rest } : State).sample inp

/-- Settles O40, by induction on the Ticks: each leaves the state in which it begins, still waiting. -/
theorem waitingWithoutKeysChangesNothing : Obligations.WaitingWithoutKeysChangesNothing := by
  unfold Obligations.WaitingWithoutKeysChangesNothing
  intro s x inps rest hphase hes hhost hkeys
  induction inps generalizing s with
  | nil => exact ⟨s, rfl, hhost, rfl, OnlyChanges.refl s _⟩
  | cons inp inps ih =>
    let b := s.atListedTick inp (inps.map .tick ++ rest)
    have hbegins : TickBegins s b := .inl ⟨inp, _, hhost, rfl⟩
    have htick : tick b = .next b := tick_without_key hes (hkeys inp List.mem_cons_self)
    obtain ⟨t, hrun, hrest, hfree, honly⟩ := ih b hphase hes rfl fun i hi => hkeys i (List.mem_cons_of_mem inp hi)
    have hstep : step s = .next b := (step_of_tickBegins hphase hbegins).trans htick
    exact ⟨t, (run_succ _ _ _ hstep).trans hrun, hrest, hfree, (hbegins.onlyChanges.trans honly).mono (by decide)⟩

/-! ### The delay timer over a Tick -/

/-- Unless it runs LD DT,Vx, a Tick leaves the delay timer alone or as its timer advance leaves it. -/
theorem tick_sameOn_delay {s t : State} (h : tick s = .next t) (hdt : ∀ x, decode s.fetch ≠ .known (.ldDtVx x)) :
    SameOn s t .delay ∨ (s.es = .running ∧ SameOn s.advanceTimers t .delay) := by
  rcases tick_cases s with ⟨x, -, htick⟩ | ⟨i, hes, hd, htick⟩ | ⟨w, hes, -, htick⟩ <;> rw [htick] at h
  · cases h
    exact .inl (s.poll_onlyChanges x .delay (by decide))
  · refine .inr ⟨hes, exec_onlyChanges h .delay (delay_not_mem_writes fun x hi => hdt x ?_)⟩
    rw [hd, hi]
  · cases h
    exact .inr ⟨hes, rfl, rfl⟩

/-- Settles O42: what the timer advance took is all that a Tick takes. -/
theorem aTickTakesAtMostOneFromTheDelayTimer : Obligations.ATickTakesAtMostOneFromTheDelayTimer := by
  unfold Obligations.ATickTakesAtMostOneFromTheDelayTimer
  intro s t h hld
  rcases tick_sameOn_delay h hld with hsame | ⟨hes, hdt, href⟩
  · exact .inl hsame
  · rcases s.advanceTimers_delay_cases with ⟨⟨-, hdue⟩, hdt', href'⟩ | ⟨-, hsame⟩
    · exact .inr ⟨hes, by rw [hdt, hdt'], hdue, href.trans href'⟩
    · exact .inl (SameOn.trans hsame ⟨hdt, href⟩)

/-! ### The end of a run (R205) -/

/-- The fetch reads the address of PC in its low 12 bits. -/
theorem State.fetch_congr {s t : State} (hmem : SameOn s t .mem) (hpc : a12 t.pc.toNat = a12 s.pc.toNat) :
    t.fetch = s.fetch := by
  rw [State.fetch, State.fetch, hmem, hmem, s.readByte_congr hpc, s.readByte_congr (a12_add_one_congr hpc)]

/-- Settles O60: the Tick is the timer advance and a jump to the same 12-bit address, where the same word stands. -/
theorem anEndedRunStaysEnded : Obligations.AnEndedRunStaysEnded := by
  unfold Obligations.AnEndedRunStaysEnded
  rintro s ⟨hes, nnn, hd, hnnn⟩
  have honly : OnlyChanges s (s.advanceTimers.setPc (addrWord nnn)) [.pc, .delay, .sound] :=
    (s.advanceTimers_onlyChanges.trans (State.setPc_onlyChanges _ _)).mono (by decide)
  have hpc : a12 (addrWord nnn).toNat = a12 s.pc.toNat := by rw [addrWord_toNat, hnnn, a12_a12]
  refine ⟨_, (tick_of_known hes hd).trans (exec_jp nnn _), ⟨?_, nnn, ?_, ?_⟩, hpc, honly⟩
  · exact Eq.trans (honly .es (by decide)) hes
  · rw [State.fetch_congr (honly .mem (by decide)) hpc, hd]
  · rw [State.setPc_pc, hpc, hnnn]

end Sys2Proof.Machine
end

section
/-! ## Transactions and reset (R8, R41, R190 to R195) -/

namespace Sys2Proof.Machine

/-! ### What a Tick and a step answer -/

/-- The components that a Tick can write: those of R20 and the result. -/
def tickWrites : List Component := [.v, .index, .pc, .stack, .delay, .sound, .es, .fb, .mem, .result]

theorem writes_subset_tickWrites (i : Instr) : writes i ⊆ tickWrites := by
  cases i <;> dsimp only [writes] <;> decide

/-- Every Tick answers a next state, and leaves the inputs, the phase and the host's list alone (R103, R176). -/
theorem tick_next_onlyChanges (s : State) : ∃ t, tick s = .next t ∧ OnlyChanges s t tickWrites := by
  rcases tick_cases s with ⟨x, -, htick⟩ | ⟨i, -, -, htick⟩ | ⟨w, -, -, htick⟩
  · exact ⟨_, htick, (s.poll_onlyChanges x).mono (by decide)⟩
  · obtain ⟨t, ht, honly⟩ := exec_next_onlyChanges i s.advanceTimers
    refine ⟨t, htick.trans ht, (s.advanceTimers_onlyChanges.trans honly).mono ?_⟩
    exact List.append_subset.2 ⟨by decide, writes_subset_tickWrites i⟩
  · obtain ⟨t, ht, -, -, honly⟩ := execUnknown_onlyChanges w s.advanceTimers
    exact ⟨t, htick.trans ht, (s.advanceTimers_onlyChanges.trans honly).mono (by decide)⟩

theorem tick_onlyChanges {s t : State} (h : tick s = .next t) : OnlyChanges s t tickWrites := by
  obtain ⟨t', ht', honly⟩ := tick_next_onlyChanges s
  cases h.symm.trans ht'
  exact honly

theorem step_of_init {s : State} {rest : List Transaction} (h : s.host = .init :: rest) :
    step s = .next ({ s with host := rest } : State).init := by
  simp only [step, State.takeTransaction, h, performTransaction]

theorem step_of_loadRom {s : State} {rom : List Byte} {rest : List Transaction} (hphase : s.phase = .initialised)
    (h : s.host = .loadRom rom :: rest) : step s = .next (({ s with host := rest } : State).loadRom rom) := by
  simp only [step, State.takeTransaction, h, performTransaction, hphase]

/-- A step with a next state is an Init, a LoadROM or a Tick. -/
theorem step_next_cases {s t : State} (h : step s = .next t) :
    (∃ rest, s.host = .init :: rest ∧ t = ({ s with host := rest } : State).init) ∨
      (∃ rom rest, s.phase = .initialised ∧ s.host = .loadRom rom :: rest ∧
        t = ({ s with host := rest } : State).loadRom rom) ∨
      (∃ b, s.phase = .initialised ∧ TickBegins s b ∧ tick b = .next t) := by
  rcases step_cases s with ⟨rest, hhost, hstep⟩ | ⟨rom, rest, hhost, hphase, hstep⟩ | ⟨inp, rest, hhost, hphase, hstep⟩ |
    ⟨hhost, hphase, hstep⟩ | ⟨-, hstep⟩ <;> rw [hstep] at h
  · cases h
    exact .inl ⟨rest, hhost, rfl⟩
  · cases h
    exact .inr (.inl ⟨rom, rest, hphase, hhost, rfl⟩)
  · exact .inr (.inr ⟨_, hphase, .inl ⟨inp, rest, hhost, rfl⟩, h⟩)
  · exact .inr (.inr ⟨_, hphase, .inr ⟨hhost, rfl⟩, h⟩)
  · cases h

/-- Settles O48: each of the three transactions is total, and none of them undoes the first Init. -/
theorem afterInitEveryStepCompletes : Obligations.AfterInitEveryStepCompletes := by
  unfold Obligations.AfterInitEveryStepCompletes
  intro s hphase
  have ofTick : ∀ b, TickBegins s b → ∃ t, step s = .next t ∧ t.phase = .initialised := by
    intro b hb
    obtain ⟨t, ht, honly⟩ := tick_next_onlyChanges b
    have hbphase : b.phase = s.phase := hb.onlyChanges .phase (by decide)
    have htphase : t.phase = b.phase := honly .phase (by decide)
    exact ⟨t, (step_of_tickBegins hphase hb).trans ht, by rw [htphase, hbphase, hphase]⟩
  cases hhost : s.host with
  | nil => exact ofTick _ (.inr ⟨hhost, rfl⟩)
  | cons tr rest =>
    cases tr with
    | init => exact ⟨_, step_of_init hhost, rfl⟩
    | loadRom rom => exact ⟨_, step_of_loadRom hphase hhost, hphase⟩
    | tick inp => exact ofTick _ (.inl ⟨inp, rest, hhost, rfl⟩)

/-- Settles O47: of the cases of a step only the refusal and Init do without an Init before. -/
theorem onlyInitBeforeTheFirstInit : Obligations.OnlyInitBeforeTheFirstInit := by
  unfold Obligations.OnlyInitBeforeTheFirstInit
  intro s hphase hinit
  rcases step_cases s with ⟨rest, hhost, -⟩ | ⟨_, _, _, hp, -⟩ | ⟨_, _, _, hp, -⟩ | ⟨_, hp, -⟩ | ⟨-, hstep⟩
  · exact absurd hhost (hinit rest)
  · cases hphase.symm.trans hp
  · cases hphase.symm.trans hp
  · cases hphase.symm.trans hp
  · exact hstep

/-- Settles O59: a Tick overwrites the result before anything else, and a refusal answers no state. -/
theorem resultIsAnOutputOnly : Obligations.ResultIsAnOutputOnly := by
  unfold Obligations.ResultIsAnOutputOnly
  intro s r hinit hrom
  cases hhost : s.host with
  | nil => simp only [step, State.takeTransaction, State.setResult_host, hhost, performTransaction]; rfl
  | cons tr rest =>
    cases tr with
    | init => exact absurd hhost (hinit rest)
    | loadRom rom => exact absurd hhost (hrom rom rest)
    | tick inp => simp only [step, State.takeTransaction, State.setResult_host, hhost, performTransaction]; rfl

/-! ### Reset -/

theorem State.readByte_of_mem_nil {s : State} (h : s.mem = []) {a : Nat} (ha : a < 4096) :
    s.readByte a = unwrittenByte s.inits a := by
  have ha12 : a12 a = a := Nat.mod_eq_of_lt ha
  simp only [State.readByte, h, Memory.lookup, Option.getD_none, ha12]

theorem unwrittenByte_font (k : Nat) {a : Nat} (h : a < 80) : unwrittenByte k a = Config.font a := if_pos h

theorem unwrittenByte_memInit (k : Nat) {a : Nat} (h : 80 ≤ a) : unwrittenByte k a = Config.memInit k a :=
  if_neg (Nat.not_lt.2 h)

theorem State.reset_getV (r : Reg) : State.reset.getV r = 0 := Vector.getElem_replicate ..

/-- Settles O44: every register of the reset state is 0, and no byte is written. -/
theorem resetState : Obligations.ResetState := by
  unfold Obligations.ResetState
  refine ⟨State.reset_getV, rfl, rfl, rfl, rfl, rfl, rfl, pixel_blankFb, fun a ha => ?_⟩
  rw [State.readByte_of_mem_nil rfl (by omega), unwrittenByte_font _ ha]

/-- Settles O45: Init answers the reset state, in which no byte is written, with the next MEM_INIT. -/
theorem initResetsFromAnyState : Obligations.InitResetsFromAnyState := by
  unfold Obligations.InitResetsFromAnyState
  intro s rest hhost
  refine ⟨_, step_of_init hhost, State.reset_getV, rfl, rfl, rfl, rfl, rfl, rfl, pixel_blankFb, rfl, rfl,
    fun a ha => ?_, fun a ha ha' => ?_⟩
  · rw [State.readByte_of_mem_nil rfl (by omega), unwrittenByte_font _ ha]
  · rw [State.readByte_of_mem_nil rfl ha', unwrittenByte_memInit _ ha]
    rfl

/-- Settles O46: the copied bytes are those of `loadRom_spec`, and the addresses outside the image are none of theirs. -/
theorem loadRomCopiesUpToTheCeiling : Obligations.LoadRomCopiesUpToTheCeiling := by
  unfold Obligations.LoadRomCopiesUpToTheCeiling
  intro s rom rest hphase hhost
  obtain ⟨hcopied, hkept, honly⟩ := State.loadRom_spec { s with host := rest } rom
  have htaken : OnlyChanges s { s with host := rest } [.host] := by
    intro c hc
    cases c <;> simp_all [SameOn, State.getV, State.readByte]
  refine ⟨_, step_of_loadRom hphase hhost, rfl, rfl, hcopied, fun a ha hout => ?_, (htaken.trans honly).mono (by decide)⟩
  refine hkept a fun i hi => ?_
  simp only [a12, Config.memSize, Config.romBase, Config.romMax] at hi ⊢
  omega

/-! ### The invariant -/

/-- Settles O50: nothing is stacked or written, and T60 is a successor. -/
theorem resetMeetsTheInvariant : Obligations.ResetMeetsTheInvariant := by
  unfold Obligations.ResetMeetsTheInvariant
  exact ⟨by decide, by decide, Nat.succ_pos _⟩

theorem exec_stack_length_le {i : Instr} {s t : State} (hs : s.stack.length ≤ Config.stackDepth)
    (h : exec i s = .next t) : t.stack.length ≤ Config.stackDepth := by
  rcases exec_stack_cases h with hsame | ⟨nnn, a, -, hroom, hpush⟩ | ⟨-, a, hpop⟩
  · rwa [hsame]
  · rw [hpush, List.length_append, List.length_singleton]
    omega
  · rw [hpop, List.length_append] at hs
    omega

/-- Every byte that an instruction writes goes through `writeByte`, which keeps the canonical form. -/
theorem exec_mem_wf {i : Instr} {s t : State} (hwf : Memory.wf s.mem) (h : exec i s = .next t) : Memory.wf t.mem := by
  cases i
  case ret => rcases exec_ret_cases s with ⟨-, hr⟩ | ⟨l, a, -, hr⟩ <;> cases hr.symm.trans h <;> exact hwf
  case call nnn => rcases exec_call_cases nnn s with ⟨-, hc⟩ | ⟨-, hc⟩ <;> cases hc.symm.trans h <;> exact hwf
  case ldBcd =>
    cases h
    exact State.writeByte_wf _ _ _ (State.writeByte_wf _ _ _ (State.writeByte_wf _ _ _ hwf))
  case storeRegs x =>
    cases h
    obtain ⟨-, -, -, hkeeps⟩ := s.storeUpTo_spec (x.toNat + 1) x.isLt
    exact hkeeps hwf
  case loadRegs x =>
    cases h
    rw [State.advance_mem, State.loadUpTo_eq]
    exact hwf
  all_goals
    cases h
    exact hwf

theorem exec_inv {i : Instr} {s t : State} (hinv : s.Inv) (h : exec i s = .next t) : t.Inv := by
  obtain ⟨hstack, hmem, ht60⟩ := hinv
  have hsame : t.t60 = s.t60 := exec_onlyChanges h .t60 fun hw => absurd (writes_subset_tickWrites i hw) (by decide)
  exact ⟨exec_stack_length_le hstack h, exec_mem_wf hmem h, by rwa [hsame]⟩

theorem State.poll_inv {s : State} (x : Reg) (hinv : s.Inv) : (s.poll x).Inv := by
  unfold State.poll
  split <;> exact hinv

theorem State.advanceTimers_inv {s : State} (hinv : s.Inv) : s.advanceTimers.Inv := by
  obtain ⟨hstack, hmem, ht60⟩ := hinv
  exact ⟨by rwa [State.advanceTimers_stack], by rwa [State.advanceTimers_mem], by rwa [State.advanceTimers_t60]⟩

theorem tick_inv {s t : State} (hinv : s.Inv) (h : tick s = .next t) : t.Inv := by
  rcases tick_cases s with ⟨x, -, htick⟩ | ⟨i, -, -, htick⟩ | ⟨w, -, -, htick⟩ <;> rw [htick] at h
  · cases h
    exact State.poll_inv x hinv
  · exact exec_inv (State.advanceTimers_inv hinv) h
  · cases h
    exact State.advanceTimers_inv hinv

theorem TickBegins.inv {s b : State} (h : TickBegins s b) (hinv : s.Inv) : b.Inv := by
  rcases h with ⟨_, _, _, rfl⟩ | ⟨_, rfl⟩ <;> exact hinv

/-- Settles O49: Init empties the stack and memory, LoadROM writes canonically, and so does every part of a Tick. -/
theorem stepKeepsTheInvariant : Obligations.StepKeepsTheInvariant := by
  unfold Obligations.StepKeepsTheInvariant
  intro s t hinv h
  rcases step_next_cases h with ⟨rest, -, rfl⟩ | ⟨rom, rest, -, -, rfl⟩ | ⟨b, -, hb, htick⟩
  · obtain ⟨hstack, hmem, -⟩ := resetMeetsTheInvariant
    obtain ⟨-, -, ht60⟩ := hinv
    exact ⟨hstack, hmem, ht60⟩
  · obtain ⟨hstack, hmem, ht60⟩ := hinv
    exact ⟨hstack, Memory.loadFrom_wf rom _ 0 hmem, ht60⟩
  · exact tick_inv (hb.inv hinv) htick

end Sys2Proof.Machine
end

section
/-! ## What cannot be observed (R29, R36 to R38, R41; D21, D28) -/

namespace Sys2Proof.Machine

/-! ### Hidden components

The inputs of the Tick, the sound timer and the two references are read by few instructions. A `Hiding` changes them all
at once, so that one lemma over the instructions serves every claim that something is not observed. -/

/-- A change of the components that most instructions do not read. -/
structure Hiding where
  inputs : TickInputs → TickInputs := id
  st : Byte → Byte := id
  stRef : Nat → Nat := id
  dtRef : Nat → Nat := id

/-- The state with those components changed. -/
def State.hide (s : State) (g : Hiding) : State :=
  { s with inputs := g.inputs s.inputs, st := g.st s.st, stRef := g.stRef s.stRef, dtRef := g.dtRef s.dtRef }

@[simp] theorem State.hide_stack (s : State) (g : Hiding) : (s.hide g).stack = s.stack := rfl
@[simp] theorem State.hide_inputs (s : State) (g : Hiding) : (s.hide g).inputs = g.inputs s.inputs := rfl

/-- What an instruction reads of those components in `s` is as it was after the change; where it writes a component, the
change would not be seen in what is written. -/
def Hiding.UnreadBy (g : Hiding) (s : State) : Instr → Prop
  | .rnd _ _ => (g.inputs s.inputs).rnd = s.inputs.rnd
  | .skp _ | .sknp _ => (g.inputs s.inputs).keys = s.inputs.keys
  | .ldDtVx _ => (g.inputs s.inputs).now = g.dtRef s.inputs.now
  | .ldStVx x => (g.inputs s.inputs).now = g.stRef s.inputs.now ∧ g.st (s.getV x) = s.getV x
  | _ => True

theorem State.storeUpTo_hide (s : State) (g : Hiding) (n : Nat) :
    (s.hide g).storeUpTo n = (s.storeUpTo n).hide g := by
  induction n with
  | zero => rfl
  | succ n ih => rw [State.storeUpTo, ih]; rfl

theorem State.loadUpTo_hide (s : State) (g : Hiding) (n : Nat) : (s.hide g).loadUpTo n = (s.loadUpTo n).hide g := by
  induction n with
  | zero => rfl
  | succ n ih => rw [State.loadUpTo, ih]; rfl

theorem State.drawn_hide (s : State) (g : Hiding) (x y : Reg) (n : BitVec 4) : (s.hide g).drawn x y n = s.drawn x y n :=
  State.plotSprite_congr s (s.hide g) rfl rfl rfl rfl _ _ _

/-- A change that an instruction does not read comes out of it as it went in. -/
theorem exec_hide {g : Hiding} {i : Instr} {s t : State} (hg : g.UnreadBy s i) (h : exec i s = .next t) :
    exec i (s.hide g) = .next (t.hide g) := by
  cases i
  case ret =>
    rcases exec_ret_cases s with ⟨hempty, hr⟩ | ⟨l, a, htop, hr⟩ <;> cases hr.symm.trans h
    · exact exec_ret_of_empty (s := s.hide g) hempty
    · exact exec_ret_of_top (s := s.hide g) htop
  case call nnn =>
    rcases exec_call_cases nnn s with ⟨hfull, hc⟩ | ⟨hroom, hc⟩ <;> cases hc.symm.trans h <;>
      rcases exec_call_cases nnn (s.hide g) with ⟨hfull', hc'⟩ | ⟨hroom', hc'⟩
    · exact hc'
    · exact absurd hfull hroom'
    · exact absurd hfull' hroom
    · exact hc'
  case rnd x kk =>
    cases h
    rw [exec_rnd, State.hide_inputs, show (g.inputs s.inputs).rnd = s.inputs.rnd from hg]
    rfl
  case skp x =>
    rw [exec_skp] at h
    cases h
    rw [exec_skp, State.hide_inputs, show (g.inputs s.inputs).keys = s.inputs.keys from hg]
    rfl
  case sknp x =>
    rw [exec_sknp] at h
    cases h
    rw [exec_sknp, State.hide_inputs, show (g.inputs s.inputs).keys = s.inputs.keys from hg]
    rfl
  case ldDtVx x =>
    cases h
    rw [exec_ldDtVx, State.hide_inputs, show (g.inputs s.inputs).now = g.dtRef s.inputs.now from hg]
    rfl
  case ldStVx x =>
    cases h
    obtain ⟨hnow, hvalue⟩ := hg
    rw [exec_ldStVx, State.hide_inputs, hnow, show (s.hide g).getV x = g.st (s.getV x) from hvalue.symm]
    rfl
  case drw x y n =>
    cases h
    rw [exec_drw, State.drawn_hide]
    rfl
  case storeRegs x =>
    cases h
    rw [exec_storeRegs, State.storeUpTo_hide]
    rfl
  case loadRegs x =>
    cases h
    rw [exec_loadRegs, State.loadUpTo_hide]
    rfl
  all_goals
    cases h
    rfl

/-- The poll reads the keys alone. -/
theorem State.poll_hide {g : Hiding} {s : State} (hkeys : (g.inputs s.inputs).keys = s.inputs.keys) (x : Reg) :
    (s.hide g).poll x = (s.poll x).hide g := by
  unfold State.poll
  rw [State.hide_inputs, hkeys]
  cases leastKey s.inputs.keys <;> rfl

/-! ### The inputs -/

/-- An instruction answers the same for other inputs that agree in what it reads (R36 to R38). -/
theorem exec_withInputs {i : Instr} {s t : State} (h : exec i s = .next t) (inp : TickInputs)
    (hrnd : (∃ x kk, i = .rnd x kk) → inp.rnd = s.inputs.rnd)
    (hkeys : (∃ x, i = .skp x ∨ i = .sknp x) → inp.keys = s.inputs.keys)
    (hnow : (∃ x, i = .ldDtVx x ∨ i = .ldStVx x) → inp.now = s.inputs.now) :
    exec i { s with inputs := inp } = .next { t with inputs := inp } := by
  refine exec_hide (g := { inputs := fun _ => inp }) ?_ h
  cases i
  case rnd x kk => exact hrnd ⟨x, kk, rfl⟩
  case skp x => exact hkeys ⟨x, .inl rfl⟩
  case sknp x => exact hkeys ⟨x, .inr rfl⟩
  case ldDtVx x => exact hnow ⟨x, .inl rfl⟩
  case ldStVx x => exact ⟨hnow ⟨x, .inr rfl⟩, rfl⟩
  all_goals exact trivial

/-- Settles O56: each clause changes one input, which the instruction does not read, and keeps the other two. -/
theorem inputsReachOnlyTheirInstructions : Obligations.InputsReachOnlyTheirInstructions := by
  unfold Obligations.InputsReachOnlyTheirInstructions
  intro i s t h
  refine ⟨fun b hrnd => exec_withInputs h _ ?_ (fun _ => rfl) (fun _ => rfl),
    fun k hskp hsknp => exec_withInputs h _ (fun _ => rfl) ?_ (fun _ => rfl),
    fun n hdt hst => exec_withInputs h _ (fun _ => rfl) (fun _ => rfl) ?_⟩
  · rintro ⟨x, kk, hi⟩
    exact absurd hi (hrnd x kk)
  · rintro ⟨x, hi | hi⟩
    · exact absurd hi (hskp x)
    · exact absurd hi (hsknp x)
  · rintro ⟨x, hi | hi⟩
    · exact absurd hi (hdt x)
    · exact absurd hi (hst x)

/-! ### The sound timer -/

/-- `u` is `s` but for the sound timer and its reference. -/
def DiffersInSound (s u : State) : Prop := ∃ b n, u = s.setSound b n

theorem DiffersInSound.refl (s : State) : DiffersInSound s s := ⟨s.st, s.stRef, rfl⟩

/-- Another sound timer and reference. -/
def Hiding.sound (b : Byte) (n : Nat) : Hiding := { st := fun _ => b, stRef := fun _ => n }

theorem State.setSound_eq_hide (s : State) (b : Byte) (n : Nat) : s.setSound b n = s.hide (.sound b n) := rfl

theorem DiffersInSound.exec {i : Instr} {s u t : State} (hu : DiffersInSound s u) (h : exec i s = .next t) :
    ∃ w, exec i u = .next w ∧ DiffersInSound t w := by
  obtain ⟨b, n, rfl⟩ := hu
  by_cases hst : ∃ x, i = .ldStVx x
  · obtain ⟨x, rfl⟩ := hst
    cases h
    exact ⟨_, rfl, DiffersInSound.refl _⟩
  · refine ⟨t.setSound b n, ?_, b, n, rfl⟩
    rw [State.setSound_eq_hide, State.setSound_eq_hide]
    refine exec_hide ?_ h
    cases i
    case ldStVx x => exact absurd ⟨x, rfl⟩ hst
    case rnd | skp | sknp | ldDtVx => rfl
    all_goals exact trivial

theorem State.advanceDelay_setSound (s : State) (b : Byte) (n : Nat) :
    (s.setSound b n).advanceDelay = s.advanceDelay.setSound b n := by
  unfold State.advanceDelay
  rw [apply_ite (State.setSound · b n)]
  rfl

theorem State.advanceSound_eq_setSound (s : State) : ∃ b n, s.advanceSound = s.setSound b n := by
  rcases s.advanceSound_cases with ⟨h, -⟩ | ⟨h, -⟩
  · exact ⟨s.st, s.stRef, h⟩
  · exact ⟨_, _, h⟩

theorem DiffersInSound.advanceTimers {s u : State} (hu : DiffersInSound s u) :
    DiffersInSound s.advanceTimers u.advanceTimers := by
  obtain ⟨b, n, rfl⟩ := hu
  rw [State.advanceTimers, State.advanceTimers, State.advanceDelay_setSound]
  obtain ⟨bs, ns, hs⟩ := s.advanceDelay.advanceSound_eq_setSound
  obtain ⟨bu, nu, hu⟩ := (s.advanceDelay.setSound b n).advanceSound_eq_setSound
  exact ⟨bu, nu, by rw [hs, hu]; rfl⟩

theorem DiffersInSound.tick {s u t : State} (hu : DiffersInSound s u) (h : tick s = .next t) :
    ∃ w, tick u = .next w ∧ DiffersInSound t w := by
  have hadvance := hu.advanceTimers
  obtain ⟨b, n, rfl⟩ := hu
  rcases tick_cases s with ⟨x, hes, htick⟩ | ⟨i, hes, hd, htick⟩ | ⟨w, hes, hd, htick⟩ <;> rw [htick] at h
  · cases h
    exact ⟨_, tick_of_awaitingKey (s := s.setSound b n) hes, b, n, State.poll_hide (g := .sound b n) rfl x⟩
  · obtain ⟨w, hw, hdiff⟩ := hadvance.exec h
    exact ⟨w, (tick_of_known (s := s.setSound b n) hes hd).trans hw, hdiff⟩
  · cases h
    obtain ⟨c, m, hc⟩ := hadvance
    refine ⟨_, (tick_of_unknown (s := s.setSound b n) hes hd).trans rfl, c, m, ?_⟩
    rw [hc]
    rfl

theorem TickBegins.setSound {s b : State} (h : TickBegins s b) (c : Byte) (n : Nat) :
    TickBegins (s.setSound c n) (b.setSound c n) := by
  rcases h with ⟨inp, rest, hhost, rfl⟩ | ⟨hhost, rfl⟩
  · exact .inl ⟨inp, rest, hhost, rfl⟩
  · exact .inr ⟨hhost, rfl⟩

theorem DiffersInSound.step {s u t : State} (hu : DiffersInSound s u) (h : step s = .next t) :
    ∃ w, step u = .next w ∧ DiffersInSound t w := by
  obtain ⟨c, n, rfl⟩ := hu
  rcases step_next_cases h with ⟨rest, hhost, rfl⟩ | ⟨rom, rest, hphase, hhost, rfl⟩ | ⟨b, hphase, hb, htick⟩
  · exact ⟨_, step_of_init (s := s.setSound c n) hhost, DiffersInSound.refl _⟩
  · exact ⟨_, step_of_loadRom (s := s.setSound c n) hphase hhost, c, n, rfl⟩
  · obtain ⟨w, hw, hdiff⟩ := DiffersInSound.tick ⟨c, n, rfl⟩ htick
    exact ⟨w, (step_of_tickBegins (s := s.setSound c n) hphase (hb.setSound c n)).trans hw, hdiff⟩

/-- The simulation over a run, by induction on its length. -/
theorem DiffersInSound.run {k : Nat} {s u t : State} (hu : DiffersInSound s u) (h : core.run k s = .next t) :
    ∃ w, core.run k u = .next w ∧ DiffersInSound t w := by
  induction k generalizing s u with
  | zero =>
    cases h
    exact ⟨u, rfl, hu⟩
  | succ k ih =>
    obtain ⟨s', hs', hrun⟩ := step_of_run core k s t h
    obtain ⟨u', hu', hdiff⟩ := hu.step hs'
    obtain ⟨w, hw, hdiff'⟩ := ih hdiff hrun
    exact ⟨w, (run_succ k u u' hu').trans hw, hdiff'⟩

/-- Settles O57: the simulation from two states that differ in the sound timer. -/
theorem soundTimerIsUnobservable : Obligations.SoundTimerIsUnobservable := by
  unfold Obligations.SoundTimerIsUnobservable
  intro k s t b n h
  obtain ⟨w, hw, b', n', rfl⟩ := DiffersInSound.run ⟨b, n, rfl⟩ h
  exact ⟨b', n', hw⟩

/-! ### The reference of an idle delay timer -/

/-- Another reference of the delay timer. -/
def Hiding.delayRef (n : Nat) : Hiding := { dtRef := fun _ => n }

theorem State.setDelay_eq_hide {s : State} (h : s.dt = 0) (n : Nat) : s.setDelay 0 n = s.hide (.delayRef n) := by
  rw [← h]
  rfl

theorem State.advanceDelay_of_idle {s : State} (h : s.dt = 0) : s.advanceDelay = s := by
  rcases s.advanceDelay_cases with ⟨hsame, -⟩ | ⟨-, hdue⟩
  · exact hsame
  · simp [timerDue, h] at hdue

theorem State.advanceSound_setDelay (s : State) (b : Byte) (n : Nat) :
    (s.setDelay b n).advanceSound = s.advanceSound.setDelay b n := by
  unfold State.advanceSound
  rw [apply_ite (State.setDelay · b n)]
  rfl

theorem State.advanceTimers_setDelay_of_idle {s : State} (h : s.dt = 0) (n : Nat) :
    (s.setDelay 0 n).advanceTimers = s.advanceTimers.setDelay 0 n := by
  rw [State.advanceTimers, State.advanceTimers, State.advanceDelay_of_idle h,
    State.advanceDelay_of_idle (s.setDelay_dt 0 n), State.advanceSound_setDelay]

theorem State.advanceTimers_dt_of_idle {s : State} (h : s.dt = 0) : s.advanceTimers.dt = 0 := by
  rw [State.advanceTimers, State.advanceDelay_of_idle h]
  exact Eq.trans (s.advanceSound_onlyChanges .delay (by decide)).1 h

/-- An instruction sees nothing of the reference of an idle delay timer: LD DT,Vx overwrites it, the others keep it. -/
theorem exec_setDelay_of_idle {i : Instr} {s t : State} (hdt : s.dt = 0) (n : Nat) (h : exec i s = .next t) :
    exec i (s.setDelay 0 n) = .next t ∨ (t.dt = 0 ∧ exec i (s.setDelay 0 n) = .next (t.setDelay 0 n)) := by
  by_cases hld : ∃ x, i = .ldDtVx x
  · obtain ⟨x, rfl⟩ := hld
    cases h
    exact .inl rfl
  · have ht : t.dt = 0 :=
      Eq.trans (exec_onlyChanges h .delay (delay_not_mem_writes fun x hi => hld ⟨x, hi⟩)).1 hdt
    refine .inr ⟨ht, ?_⟩
    rw [State.setDelay_eq_hide hdt, State.setDelay_eq_hide ht]
    refine exec_hide ?_ h
    cases i
    case ldDtVx x => exact absurd ⟨x, rfl⟩ hld
    case ldStVx => exact ⟨rfl, rfl⟩
    case rnd | skp | sknp => rfl
    all_goals exact trivial

/-- Settles O58: the timer advance passes an idle timer by, and neither the poll nor an instruction reads its reference. -/
theorem idleDelayReferenceIsUnobservable : Obligations.IdleDelayReferenceIsUnobservable := by
  unfold Obligations.IdleDelayReferenceIsUnobservable
  intro s t n hdt h
  have hadvance := State.advanceTimers_setDelay_of_idle hdt n
  have hdt' := State.advanceTimers_dt_of_idle hdt
  rcases tick_cases s with ⟨x, hes, htick⟩ | ⟨i, hes, hd, htick⟩ | ⟨w, hes, hd, htick⟩ <;> rw [htick] at h
  · cases h
    have hpoll : (s.poll x).dt = 0 := Eq.trans (s.poll_onlyChanges x .delay (by decide)).1 hdt
    refine .inr ⟨hpoll, ?_⟩
    rw [tick_of_awaitingKey (s := s.setDelay 0 n) hes, State.setDelay_eq_hide hdt, State.setDelay_eq_hide hpoll,
      State.poll_hide rfl]
  · rw [tick_of_known (s := s.setDelay 0 n) hes hd, hadvance]
    exact exec_setDelay_of_idle hdt' n h
  · cases h
    refine .inr ⟨hdt', ?_⟩
    rw [tick_of_unknown (s := s.setDelay 0 n) hes hd, hadvance]
    rfl

end Sys2Proof.Machine
end
